-- ==== Sys2Proof/Word.lean ====
section
/-! DEFINITION. The word types of FMVA: the 32-bit command word and the byte. -/

namespace Sys2Proof

/-- One command word (30_encoding.md R100). -/
abbrev Word := BitVec 32

/-- One byte: a timbre RAM cell, a data byte of an event, the data of an output item. -/
abbrev Byte := BitVec 8

end Sys2Proof
end

