-- ==== Sys2Proof/Syntax.lean ====
section
/-! DEFINITION. The commands of FMVA: one constructor for each row of spec/opcode_table.json. -/

namespace Sys2Proof

/-- A command (30_encoding.md R108). Every field has the width of its place in the word (R101 to R105), the ignored
bits included (`z`, R110): they change nothing but what a Misconfig trap records in `ERRCMD` (60_exceptions.md R324,
log entry 13). -/
inductive Instr where
  /-- NOP (45_backend_and_system_commands.md R290). -/
  | nop (z : BitVec 28)
  /-- CFG idx, val (R292). -/
  | cfg (idx : BitVec 4) (val : BitVec 8) (z : BitVec 16)
  /-- TBWR addr, data (R296). -/
  | tbwr (addr : BitVec 12) (data : BitVec 8) (z : BitVec 8)
  /-- The reserved opcodes 0x3 to 0x7 (30_encoding.md R109). -/
  | reserved3 (z : BitVec 28)
  | reserved4 (z : BitVec 28)
  | reserved5 (z : BitVec 28)
  | reserved6 (z : BitVec 28)
  | reserved7 (z : BitVec 28)
  /-- NOTEOFF ch, key, vel (41_event_commands.md R160). -/
  | noteoff (ch : BitVec 4) (key vel : BitVec 8) (z : BitVec 8)
  /-- NOTEON ch, key, vel (R151). -/
  | noteon (ch : BitVec 4) (key vel : BitVec 8) (z : BitVec 8)
  /-- The reserved opcode 0xA (30_encoding.md R109). -/
  | reservedA (z : BitVec 28)
  /-- CTRL ch, ctl, val (41_event_commands.md R165). -/
  | ctrl (ch : BitVec 4) (ctl val : BitVec 8) (z : BitVec 8)
  /-- PROG ch, prog (R182). -/
  | prog (ch : BitVec 4) (prog : BitVec 8) (z : BitVec 16)
  /-- The reserved opcode 0xD (30_encoding.md R109). -/
  | reservedD (z : BitVec 28)
  /-- BEND ch, lsb, msb (41_event_commands.md R183). -/
  | bend (ch : BitVec 4) (lsb msb : BitVec 8) (z : BitVec 8)
  /-- RESET (45_backend_and_system_commands.md R298). -/
  | reset (z : BitVec 28)
  deriving DecidableEq, Repr

end Sys2Proof
end

