-- ==== Sys2Proof/Decode.lean ====
section
/-! DEFINITION. The decoder of 30_encoding.md R113, total on every word, and after it the encoder, written from the
same tables, and the assembler's pseudo-instructions. -/

namespace Sys2Proof

/-! ### The fields of a command word (30_encoding.md R101) -/

/-- `OP`, bits 31:28. -/
def Word.op (w : Word) : BitVec 4 := w.extractLsb' 28 4
/-- `CH`, bits 27:24. -/
def Word.ch (w : Word) : BitVec 4 := w.extractLsb' 24 4
/-- `A`, bits 23:16. -/
def Word.a (w : Word) : BitVec 8 := w.extractLsb' 16 8
/-- `B`, bits 15:8. -/
def Word.b (w : Word) : BitVec 8 := w.extractLsb' 8 8
/-- `TA`, bits 27:16. -/
def Word.ta (w : Word) : BitVec 12 := w.extractLsb' 16 12
/-- `Z`, bits 7:0. -/
def Word.z (w : Word) : BitVec 8 := w.extractLsb' 0 8
/-- Bits 15:0, ignored in format C and in PROG (R110). -/
def Word.z16 (w : Word) : BitVec 16 := w.extractLsb' 0 16
/-- Bits 27:0, ignored in format Z (R105). -/
def Word.z28 (w : Word) : BitVec 28 := w.extractLsb' 0 28

/-- The opcode map (R108, R113). Every word decodes (R111); the `CFGERR` gate and the seven-bit check that R113 also
names are part of the events' meanings. -/
def decode (w : Word) : Instr :=
  match w.op.toNat with
  | 0x0 => .nop (Word.z28 w)
  | 0x1 => .cfg (Word.ch w) (Word.a w) (Word.z16 w)
  | 0x2 => .tbwr (Word.ta w) (Word.b w) (Word.z w)
  | 0x3 => .reserved3 (Word.z28 w)
  | 0x4 => .reserved4 (Word.z28 w)
  | 0x5 => .reserved5 (Word.z28 w)
  | 0x6 => .reserved6 (Word.z28 w)
  | 0x7 => .reserved7 (Word.z28 w)
  | 0x8 => .noteoff (Word.ch w) (Word.a w) (Word.b w) (Word.z w)
  | 0x9 => .noteon (Word.ch w) (Word.a w) (Word.b w) (Word.z w)
  | 0xA => .reservedA (Word.z28 w)
  | 0xB => .ctrl (Word.ch w) (Word.a w) (Word.b w) (Word.z w)
  | 0xC => .prog (Word.ch w) (Word.a w) (Word.z16 w)
  | 0xD => .reservedD (Word.z28 w)
  | 0xE => .bend (Word.ch w) (Word.a w) (Word.b w) (Word.z w)
  | _ => .reset (Word.z28 w)

/-- Format E: `OP | CH | A | B | Z` (R102). -/
def formatE (op ch : BitVec 4) (a b z : BitVec 8) : Word := op ++ ch ++ a ++ b ++ z
/-- Format C, and PROG: `OP | CH | A` and sixteen ignored bits (R103, R110). -/
def formatC (op ch : BitVec 4) (a : BitVec 8) (z : BitVec 16) : Word := op ++ ch ++ a ++ z
/-- Format T: `OP | TA | B | Z` (R104). -/
def formatT (op : BitVec 4) (ta : BitVec 12) (b z : BitVec 8) : Word := op ++ ta ++ b ++ z
/-- Format Z: `OP` and twenty-eight ignored bits (R105). -/
def formatZ (op : BitVec 4) (z : BitVec 28) : Word := op ++ z

/-- The word of a command (R102 to R105, R108). -/
def encode : Instr → Word
  | .nop z => formatZ 0x0 z
  | .cfg idx val z => formatC 0x1 idx val z
  | .tbwr addr data z => formatT 0x2 addr data z
  | .reserved3 z => formatZ 0x3 z
  | .reserved4 z => formatZ 0x4 z
  | .reserved5 z => formatZ 0x5 z
  | .reserved6 z => formatZ 0x6 z
  | .reserved7 z => formatZ 0x7 z
  | .noteoff ch key vel z => formatE 0x8 ch key vel z
  | .noteon ch key vel z => formatE 0x9 ch key vel z
  | .reservedA z => formatZ 0xA z
  | .ctrl ch ctl val z => formatE 0xB ch ctl val z
  | .prog ch prog z => formatC 0xC ch prog z
  | .reservedD z => formatZ 0xD z
  | .bend ch lsb msb z => formatE 0xE ch lsb msb z
  | .reset z => formatZ 0xF z

/-- What the decoder reads from an instruction of the opcode table whose bits are `w`. A command is one word of 32
bits and a number, not a byte string (20_memory.md R81), so bits above `nbits` are 0 and bits above 31 do not exist. -/
def decodeTableWord (nbits w : Nat) : Option Instr :=
  if nbits ≤ 32 then some (decode (BitVec.ofNat 32 (w % 2 ^ nbits))) else none

/-! ### The assembler's pseudo-instructions (30_encoding.md R117) -/

namespace Asm

/-- `VOL ch, v`. -/
def vol (ch : BitVec 4) (v : BitVec 8) : Instr := .ctrl ch 7 v 0
/-- `PAN ch, v`. -/
def pan (ch : BitVec 4) (v : BitVec 8) : Instr := .ctrl ch 10 v 0
/-- `EXPR ch, v`. -/
def expr (ch : BitVec 4) (v : BitVec 8) : Instr := .ctrl ch 11 v 0
/-- `BRIGHT ch, v`. -/
def bright (ch : BitVec 4) (v : BitVec 8) : Instr := .ctrl ch 74 v 0
/-- `DETUNE ch, v`, `v` the raw byte. -/
def detune (ch : BitVec 4) (v : BitVec 8) : Instr := .ctrl ch 94 v 0
/-- `ALLOFF ch`. -/
def alloff (ch : BitVec 4) : Instr := .ctrl ch 123 0 0
/-- `RSTCTL ch`. -/
def rstctl (ch : BitVec 4) : Instr := .ctrl ch 121 0 0
/-- `BENDRANGE ch, semis, cents`. -/
def bendrange (ch : BitVec 4) (semis cents : BitVec 8) : List Instr :=
  [.ctrl ch 101 0 0, .ctrl ch 100 0 0, .ctrl ch 6 semis 0, .ctrl ch 38 cents 0]
/-- `BEND14 ch, x`. -/
def bend14 (ch : BitVec 4) (x : BitVec 14) : Instr :=
  .bend ch ((x.extractLsb' 0 7).setWidth 8) ((x.extractLsb' 7 7).setWidth 8) 0
/-- `TIMBRE t, b0, ..., b12`: one TBWR a byte, in ascending address order. -/
def timbre (t : BitVec 8) (bytes : List (BitVec 8)) : List Instr :=
  bytes.zipIdx.map fun e => .tbwr (BitVec.ofNat 12 (13 * t.toNat + e.2)) e.1 0

end Asm

end Sys2Proof
end

