-- ==== Sys2Proof/Config.lean ====
section
/-! DEFINITION. What an implementation of FMVA fixes: the fixed sizes (00_scope.md R7), the open parameters
(00_scope.md R8) as plain data, and the free values the spec leaves open. -/

namespace Sys2Proof

namespace Config

/-- Logical channels (R7). -/
abbrev NCH : Nat := 16
/-- The percussion channel (R7). -/
abbrev PERC_CH : BitVec 4 := 9
/-- Most chips one FMVA drives (R7). -/
abbrev MAX_CHIPS : Nat := 6
/-- Timbre records (R7). -/
abbrev NTIMBRE : Nat := 256
/-- Bytes in one timbre record (R7). -/
abbrev TREC : Nat := 13
/-- Timbre RAM size (R7, R70). -/
abbrev TBYTES : Nat := 3328

end Config

/-- The nine channel categories of a voice (10_state.md R33). -/
inductive Category where
  | regular
  | fourOpFirst
  | fourOpSecond
  | rhythmSlave
  | rhythmBD
  | rhythmSD
  | rhythmTT
  | rhythmCY
  | rhythmHH
  deriving DecidableEq, Repr, Inhabited

/-- The ten inputs of the volume lookup (43_volume_model.md R222), each at its width. -/
structure VolumeInput where
  velp     : BitVec 7
  vol      : BitVec 7
  expr     : BitVec 7
  master   : BitVec 7
  bright   : BitVec 7
  tlMod    : BitVec 6
  tlCar    : BitVec 6
  conn     : Bool
  additive : Bool
  cat      : Category
  deriving DecidableEq, Repr, Inhabited

/-- A pair of 6-bit attenuations, `(mod6, car6)`. The type is the contract of 43_volume_model.md R224: no result
can leave 0..63 (93_implementation_defined.md U7). -/
structure Attenuation where
  mod6 : BitVec 6
  car6 : BitVec 6
  deriving DecidableEq, Repr, Inhabited

namespace Config

/-- FREE VALUE (log entry 5). `freqRom k n f` is what frequency table `k` of an unnamed ROM set holds for note `n`
and fraction `f`: 13 bits `block, fnum`, and nothing else is known of it (42_frequency_model.md R201, R202). -/
opaque freqRom (k n f : Nat) : BitVec 13

/-- FREE VALUE (log entry 5). `volFn k` is volume function `k` of an unnamed set (43_volume_model.md R221, R222). -/
opaque volFn (k : Nat) (x : VolumeInput) : Attenuation

/-- FREE VALUE (log entry 6). `timbreInit a` is the byte the timbre RAM holds at address `a` before any TBWR has
written it: the parameter `TIMBRE_INIT` (20_memory.md R75, 93_implementation_defined.md U6). -/
opaque timbreInit (a : Nat) : Byte

end Config

/-- One built-in frequency model: one of the two of `REF` (42_frequency_model.md R206, R208), or a table of an
unnamed ROM set, whose values are free. -/
inductive FreqModel where
  | refExp
  | refSemi
  | given (k : Nat)
  deriving DecidableEq, Repr

/-- One built-in volume model: one of the two of `REF` (43_volume_model.md R225, R226), or a function of an unnamed
set (the historical models and the `fixed` variant of R229 are of this kind). -/
inductive VolModel where
  | refLin
  | refCar
  | given (k : Nat)
  deriving DecidableEq, Repr

/-- One row of an operator map: the offsets of the modulator and the carrier of a local slot, `none` for `NP`
(00_scope.md R16, 44_register_mapper.md R247). -/
structure OpRow where
  mod : Option (BitVec 9)
  car : Option (BitVec 9)
  deriving DecidableEq, Repr

/-- The eight register bank bases (44_register_mapper.md R252). -/
structure Banks where
  char   : BitVec 9
  level  : BitVec 9
  env1   : BitVec 9
  env2   : BitVec 9
  wave   : BitVec 9
  freqLo : BitVec 9
  freqHi : BitVec 9
  fbconn : BitVec 9
  deriving DecidableEq, Repr

/-- The open parameters of 00_scope.md R8 and the two capability straps of 45_backend_and_system_commands.md R285:
what distinguishes one build of FMVA from another. `NFREQ` and `NVOL` are the lengths of the model lists, and
`TIMBRE_INIT` is `Config.timbreInit`. -/
structure Params where
  /-- `SPC`, slots per chip (R240). -/
  spc         : Nat
  /-- `FINE`, sub-semitone steps per semitone (R200). -/
  fine        : Nat
  /-- The frequency models, number `FREQSEL` selecting one (R201, R203). -/
  freqModels  : List FreqModel
  /-- The volume models, number `VOLSEL` selecting one (R221, R222). -/
  volModels   : List VolModel
  /-- `OPMAP_STD` and `OPMAP_INV`, one row a local slot (R247, R248). -/
  opmapStd    : List OpRow
  opmapInv    : List OpRow
  /-- `CHMAP_PITCH` and `CHMAP_PAN`, one entry a local slot (R249, R250). -/
  chmapPitch  : List (Option (BitVec 9))
  chmapPan    : List (Option (BitVec 9))
  /-- `FOUROP_FIRST` and `FOUROP_DELTA` (R244). -/
  fouropFirst : List Nat
  fouropDelta : Nat
  /-- `REG_*` (R252). -/
  banks       : Banks
  /-- The straps (R285): constants of a run (R372). -/
  capChiptype : Bool
  capFullpan  : Bool
  deriving DecidableEq, Repr

/-- `NV_MAX` (10_state.md R30). -/
def Params.nvMax (p : Params) : Nat := Config.MAX_CHIPS * p.spc

/-- `NFREQ` (42_frequency_model.md R201). -/
def Params.nfreq (p : Params) : Nat := p.freqModels.length

/-- `NVOL` (43_volume_model.md R221). -/
def Params.nvol (p : Params) : Nat := p.volModels.length

end Sys2Proof
end

