-- ==== Sys2Proof/Machine/Records.lean ====
section
/-! DEFINITION. The records the state is made of: configuration registers, a voice, a channel, an output item, an item
of the host's input, and the values a reset gives them. -/

namespace Sys2Proof.Machine

open Sys2Proof

/-! ### Configuration registers -/

/-- The ten configuration registers (10_state.md R21), indices 0 to 9 in this order. -/
structure Cfg where
  stereo    : Bool
  additive  : Bool
  maxchan   : BitVec 4
  freqsel   : BitVec 8
  volsel    : BitVec 8
  nchips    : BitVec 3
  n4op      : BitVec 6
  opmode    : Bool
  rhythm    : Bool
  mastervol : BitVec 7
  deriving DecidableEq, Repr

/-- The pin-reset values (10_state.md R21, 70_reset_and_hazards.md R350). -/
def Cfg.pinReset : Cfg where
  stereo    := false
  additive  := false
  maxchan   := 15
  freqsel   := 0
  volsel    := 0
  nchips    := 1
  n4op      := 0
  opmode    := false
  rhythm    := false
  mastervol := 127

/-- Writes the register with index `idx` (10_state.md R21); the checks of 45_backend_and_system_commands.md R292 made
before it see to it that the value fits. Indices 10 to 15 name no register. -/
def Cfg.write (c : Cfg) (idx : BitVec 4) (val : BitVec 8) : Cfg :=
  match idx.toNat with
  | 0 => { c with stereo := val.getLsbD 0 }
  | 1 => { c with additive := val.getLsbD 0 }
  | 2 => { c with maxchan := val.setWidth 4 }
  | 3 => { c with freqsel := val }
  | 4 => { c with volsel := val }
  | 5 => { c with nchips := val.setWidth 3 }
  | 6 => { c with n4op := val.setWidth 6 }
  | 7 => { c with opmode := val.getLsbD 0 }
  | 8 => { c with rhythm := val.getLsbD 0 }
  | 9 => { c with mastervol := val.setWidth 7 }
  | _ => c

/-- `NV`, the number of live voices (10_state.md R27, R30). -/
def Cfg.nv (c : Cfg) (p : Params) : Nat := c.nchips.toNat * p.spc

/-! ### A voice -/

/-- `FREE_OWNER` (10_state.md R31). -/
abbrev FREE_OWNER : BitVec 5 := 16
/-- `TIMBRE_NONE` (10_state.md R31). -/
abbrev TIMBRE_NONE : BitVec 9 := 0x100

/-- One entry of the voice table (10_state.md R31). -/
structure Voice where
  owner    : BitVec 5
  key      : BitVec 7
  vel      : BitVec 7
  timbre   : BitVec 9
  on       : Bool
  pitch    : BitVec 13
  cat      : Category
  reserved : Bool
  deriving DecidableEq, Repr, Inhabited

/-- A voice as every reset leaves it, of the category and reservation that Recategorise gives its slot
(10_state.md R31, 70_reset_and_hazards.md R354). -/
def Voice.fresh (cat : Category) (reserved : Bool) : Voice where
  owner    := FREE_OWNER
  key      := 0
  vel      := 0
  timbre   := TIMBRE_NONE
  on       := false
  pitch    := 0
  cat      := cat
  reserved := reserved

/-- The channel a bound voice belongs to: its `owner`, 0..15 (10_state.md R31). -/
def Voice.chanIndex (x : Voice) : BitVec 4 := x.owner.setWidth 4

/-! ### A channel -/

/-- One entry of the channel table (10_state.md R40). `detune` and `keyOffset` are signed; `keyDetune` is as wide as
`FINE` asks for, so it is a number below `FINE`. -/
structure Chan where
  program    : BitVec 7
  volume     : BitVec 7
  expression : BitVec 7
  brightness : BitVec 7
  pan        : BitVec 7
  detune     : BitVec 7
  bendSemis  : BitVec 7
  bendCents  : BitVec 7
  rpnMsb     : BitVec 7
  rpnLsb     : BitVec 7
  bend       : BitVec 14
  keyOffset  : BitVec 9
  keyDetune  : Nat
  deriving DecidableEq, Repr, Inhabited

/-- The values every reset gives a channel (10_state.md R40, 70_reset_and_hazards.md R354). -/
def Chan.default : Chan where
  program    := 0
  volume     := 100
  expression := 127
  brightness := 127
  pan        := 64
  detune     := 0
  bendSemis  := 2
  bendCents  := 0
  rpnMsb     := 127
  rpnLsb     := 127
  bend       := 8192
  keyOffset  := 0
  keyDetune  := 0

/-! ### Output items -/

/-- The kinds of an output item (30_encoding.md R114). -/
inductive OutKind where
  | reg
  | pan
  | rst
  deriving DecidableEq, Repr, Inhabited

/-- The two bits of `kind` (30_encoding.md R114). -/
def OutKind.code : OutKind → BitVec 2
  | .reg => 0
  | .pan => 1
  | .rst => 2

/-- One output item (30_encoding.md R114). -/
structure OutItem where
  kind : OutKind
  addr : BitVec 16
  data : Byte
  deriving DecidableEq, Repr, Inhabited

/-- The 26 bits of an item on the output port, `kind` first (30_encoding.md R114). -/
def OutItem.bits (x : OutItem) : BitVec 26 := x.kind.code ++ x.addr ++ x.data

/-- `REG aaaa=dd` (30_encoding.md R115). -/
abbrev OutItem.reg (addr : BitVec 16) (data : Byte) : OutItem := ⟨.reg, addr, data⟩
/-- `PAN aaaa=dd` (30_encoding.md R115). -/
abbrev OutItem.pan (addr : BitVec 16) (data : Byte) : OutItem := ⟨.pan, addr, data⟩
/-- `RST` (30_encoding.md R115). -/
abbrev OutItem.rst : OutItem := ⟨.rst, 0, 0⟩

/-! ### What the outside world does to FMVA -/

/-- One item of the host's input: a command word offered at the command port, or a pulse of the `rst` pin
(45_backend_and_system_commands.md R280; log entries 1 and 2). -/
inductive HostInput where
  | command (w : Word)
  | rstPulse
  deriving DecidableEq, Repr

end Sys2Proof.Machine
end

