-- ==== Sys2Proof/Machine/Categories.lean ====
section
/-! DEFINITION. Recategorise (44_register_mapper.md R242): the category and the reservation of every slot, functions
of the parameters and of `NCHIPS`, `N4OP`, `RHYTHM` alone (10_state.md R33). Each is the value that R242's sequence of
writes leaves at one slot: a later write to the slot wins over an earlier one. -/

namespace Sys2Proof.Machine

open Sys2Proof

/-- The writes of R242's step 1 on one chip, as local slot and category. -/
def rhythmWrites (rhythm : Bool) : List (Nat × Category) :=
  if rhythm then
    [(18, .rhythmBD), (19, .rhythmSD), (20, .rhythmTT), (21, .rhythmCY), (22, .rhythmHH),
     (6, .rhythmSlave), (7, .rhythmSlave), (8, .rhythmSlave)]
  else
    [(18, .rhythmSlave), (19, .rhythmSlave), (20, .rhythmSlave), (21, .rhythmSlave), (22, .rhythmSlave)]

/-- R242 step 1 at slot `v`: what the chips' writes leave there. -/
def rhythmCategory (p : Params) (c : Cfg) (v : Nat) : Category :=
  (List.range c.nchips.toNat).foldl
    (fun cat chip =>
      match (rhythmWrites c.rhythm).find? fun w => chip * p.spc + w.1 == v with
      | some w => w.2
      | none => cat)
    .regular

/-- R242 steps 1 and 2 at slot `v`: the category of the slot. -/
def categoryAt (p : Params) (c : Cfg) (v : Nat) : Category :=
  (List.range c.n4op.toNat).foldl
    (fun cat k =>
      match p.fouropFirst[k]? with
      | some first => if v = first + p.fouropDelta then .fourOpSecond else if v = first then .fourOpFirst else cat
      | none => cat)
    (rhythmCategory p c v)

/-- R242 step 3 at slot `v` (40_voice_pool.md R133). -/
def reservedAt (p : Params) (c : Cfg) (v : Nat) : Bool :=
  decide (c.nv p ≤ v) || decide (categoryAt p c v ≠ .regular) ||
    (!p.capChiptype && decide (9 ≤ v % p.spc) && decide (v % p.spc ≤ 17))

/-- The voice table that a reset leaves (10_state.md R31, 70_reset_and_hazards.md R354). -/
def freshVoices (p : Params) (c : Cfg) : List Voice :=
  (List.range p.nvMax).map fun v => Voice.fresh (categoryAt p c v) (reservedAt p c v)

/-- `FREE` after a reset: the live unreserved voices, ascending (10_state.md R35, 70_reset_and_hazards.md R354). -/
def freshFree (p : Params) (c : Cfg) : List Nat :=
  (List.range (c.nv p)).filter fun v => !reservedAt p c v

end Sys2Proof.Machine
end

