-- ==== Sys2Proof/Machine/Memory.lean ====
section
/-! DEFINITION. Byte memories as plain data: a list of cells with strictly rising addresses, none of them equal to
what an unlisted address reads as. `unlisted` is that value: `some 0` for `SHADOW`, which resets to 0
(10_state.md R45), `none` for the timbre RAM, whose power-on contents have no value of their own (20_memory.md R75;
log entry 6). -/

namespace Sys2Proof.Machine

open Sys2Proof

/-- A byte memory. -/
abbrev Memory := List Host.Cell

namespace Memory

/-- Every address listed is at least `lo`, the addresses rise strictly, and no entry equals `unlisted`. -/
def wfFrom (unlisted : Option Byte) (lo : Nat) : Memory → Bool
  | [] => true
  | c :: m => decide (lo ≤ c.1) && decide (unlisted ≠ some c.2) && wfFrom unlisted (c.1 + 1) m

/-- The canonical form. -/
def wf (unlisted : Option Byte) (m : Memory) : Bool := wfFrom unlisted 0 m

/-- Every address listed is below `bound`. -/
def below (bound : Nat) (m : Memory) : Bool := m.all fun c => decide (c.1 < bound)

/-- The byte at address `a`, or what an unlisted address reads as. -/
def read (unlisted : Option Byte) (m : Memory) (a : Nat) : Option Byte :=
  match m with
  | [] => unlisted
  | c :: m => if a = c.1 then some c.2 else read unlisted m a

/-- The cell for `a` holding `v`, put before `m`, unless that is what an unlisted address reads as. -/
def consCell (unlisted : Option Byte) (a : Nat) (v : Byte) (m : Memory) : Memory :=
  if unlisted = some v then m else (a, v) :: m

/-- Writes the byte `v` at address `a`, keeping the canonical form. -/
def write (unlisted : Option Byte) (m : Memory) (a : Nat) (v : Byte) : Memory :=
  match m with
  | [] => consCell unlisted a v []
  | c :: m =>
    if a < c.1 then consCell unlisted a v (c :: m)
    else if a = c.1 then consCell unlisted a v m
    else c :: write unlisted m a v

end Memory

/-- What an entry of `SHADOW` that nothing has written since the last reset of it reads as (10_state.md R45). -/
abbrev shadowUnlisted : Option Byte := some 0

/-- What the timbre RAM lists for an address no TBWR has written: no value (log entry 6). -/
abbrev ramUnlisted : Option Byte := none

end Sys2Proof.Machine
end

