-- ==== Sys2Proof/Machine/Reference.lean ====
section
/-! DEFINITION. The reference parameter set `REF` (00_scope.md R8, R9): the spec's own tables, which every concrete
vector of 95_test_vectors.md uses. It is the parameter set of `State.reset` (log entry 4). -/

namespace Sys2Proof.Machine

open Sys2Proof

/-! ### The frequency ROM (42_frequency_model.md R206 to R208) -/

/-- `BASE`, rows 0 to 7 (R207). -/
def baseRows0 : List (List Nat) :=
  [[343, 363, 385, 408, 432, 458, 485, 514, 544, 577, 611, 647],
   [344, 364, 386, 409, 433, 459, 486, 515, 545, 578, 612, 649],
   [344, 365, 386, 409, 434, 460, 487, 516, 546, 579, 613, 650],
   [345, 365, 387, 410, 434, 460, 488, 517, 547, 580, 614, 651],
   [345, 366, 388, 411, 435, 461, 489, 518, 548, 581, 616, 652],
   [346, 367, 388, 412, 436, 462, 489, 519, 549, 582, 617, 653],
   [347, 367, 389, 412, 437, 463, 490, 520, 550, 583, 618, 655],
   [347, 368, 390, 413, 438, 464, 491, 520, 551, 584, 619, 656]]

/-- `BASE`, rows 8 to 15 (R207). -/
def baseRows1 : List (List Nat) :=
  [[348, 369, 391, 414, 438, 465, 492, 521, 552, 585, 620, 657],
   [349, 369, 391, 415, 439, 465, 493, 522, 553, 586, 621, 658],
   [349, 370, 392, 415, 440, 466, 494, 523, 554, 587, 622, 659],
   [350, 371, 393, 416, 441, 467, 495, 524, 555, 588, 623, 660],
   [351, 371, 393, 417, 442, 468, 496, 525, 556, 589, 625, 662],
   [351, 372, 394, 418, 442, 469, 497, 526, 557, 591, 626, 663],
   [352, 373, 395, 418, 443, 470, 497, 527, 558, 592, 627, 664],
   [352, 373, 396, 419, 444, 470, 498, 528, 559, 593, 628, 665]]

/-- `BASE`, rows 16 to 23 (R207). -/
def baseRows2 : List (List Nat) :=
  [[353, 374, 396, 420, 445, 471, 499, 529, 560, 594, 629, 666],
   [354, 375, 397, 421, 446, 472, 500, 530, 561, 595, 630, 668],
   [354, 375, 398, 421, 446, 473, 501, 531, 562, 596, 631, 669],
   [355, 376, 398, 422, 447, 474, 502, 532, 563, 597, 632, 670],
   [356, 377, 399, 423, 448, 475, 503, 533, 564, 598, 634, 671],
   [356, 377, 400, 424, 449, 476, 504, 534, 566, 599, 635, 673],
   [357, 378, 401, 424, 450, 476, 505, 535, 567, 600, 636, 674],
   [358, 379, 401, 425, 450, 477, 506, 536, 568, 601, 637, 675]]

/-- `BASE`, rows 24 to 31 (R207). -/
def baseRows3 : List (List Nat) :=
  [[358, 379, 402, 426, 451, 478, 507, 537, 569, 602, 638, 676],
   [359, 380, 403, 427, 452, 479, 507, 538, 570, 603, 639, 677],
   [359, 381, 404, 427, 453, 480, 508, 539, 571, 605, 641, 679],
   [360, 382, 404, 428, 454, 481, 509, 540, 572, 606, 642, 680],
   [361, 382, 405, 429, 455, 482, 510, 541, 573, 607, 643, 681],
   [361, 383, 406, 430, 455, 482, 511, 542, 574, 608, 644, 682],
   [362, 384, 406, 431, 456, 483, 512, 543, 575, 609, 645, 684],
   [363, 384, 407, 431, 457, 484, 513, 543, 576, 610, 646, 685]]

/-- `BASE[f][s]` (R207), 32 rows of 12. -/
def baseTable : List (List Nat) := baseRows0 ++ baseRows1 ++ baseRows2 ++ baseRows3

/-- `REF-EXP`, `FREQ_ROM[0](n, f)` (R206). -/
def refExp (n f : Nat) : BitVec 13 :=
  let o := n / 12
  let base := (baseTable.getD f []).getD (n % 12) 0
  if o = 0 then BitVec.ofNat 3 0 ++ BitVec.ofNat 10 (base >>> 1)
  else if o ≤ 8 then BitVec.ofNat 3 (o - 1) ++ BitVec.ofNat 10 base
  else BitVec.ofNat 3 7 ++ BitVec.ofNat 10 (min 1023 (base <<< (o - 8)))

/-- `REF-SEMI`, `FREQ_ROM[1](n, f)` (R208). -/
def refSemi (n _f : Nat) : BitVec 13 := refExp n 0

/-! ### The volume functions (43_volume_model.md R225, R226) -/

/-- The gain `g` of R225, floor division at each step. -/
def refGain (x : VolumeInput) : Nat :=
  let a := x.velp.toNat * x.vol.toNat / 127
  let b := a * x.expr.toNat / 127
  b * x.master.toNat / 127

/-- `63 − (((63 − tl) × y) div 127)` (R225). -/
def refScale (tl : BitVec 6) (y : Nat) : BitVec 6 := BitVec.ofNat 6 (63 - (63 - tl.toNat) * y / 127)

/-- `REF-LIN`, `VOL_FN[0]` (R225). -/
def refLin (x : VolumeInput) : Attenuation where
  mod6 := if x.conn || x.additive then refScale x.tlMod (refGain x) else refScale x.tlMod x.bright.toNat
  car6 := refScale x.tlCar (refGain x)

/-- `REF-CAR`, `VOL_FN[1]` (R226). -/
def refCar (x : VolumeInput) : Attenuation where
  mod6 := refScale x.tlMod x.bright.toNat
  car6 := refScale x.tlCar (refGain x)

/-! ### The maps (44_register_mapper.md R244, R247 to R250) -/

/-- `OPOFF` (R247). -/
def opOff : List (BitVec 9) := [0x00, 0x01, 0x02, 0x08, 0x09, 0x0A, 0x10, 0x11, 0x12]

/-- A two-operator slot with its modulator at `o` and its carrier at `o + 3` (R247). -/
def pairAt (o : BitVec 9) : OpRow := ⟨some o, some (o + 3)⟩

/-- The rows of slots 0 to 18, the same in both operator maps (R247, R248). -/
def opRows0to18 : List OpRow := opOff.map pairAt ++ opOff.map (fun o => pairAt (0x100 + o)) ++ [pairAt 0x010]

/-- `OPMAP_STD` (R247). -/
def refOpmapStd : List OpRow :=
  opRows0to18 ++ [⟨some 0x014, none⟩, ⟨some 0x012, none⟩, ⟨some 0x015, none⟩, ⟨some 0x011, none⟩]

/-- `OPMAP_INV` (R248). -/
def refOpmapInv : List OpRow :=
  opRows0to18 ++ [⟨none, some 0x014⟩, ⟨none, some 0x012⟩, ⟨none, some 0x015⟩, ⟨none, some 0x011⟩]

/-- The channel offsets of slots 0 to 17 (R249). -/
def chanOffs0to17 : List (Option (BitVec 9)) :=
  [some 0, some 1, some 2, some 3, some 4, some 5, some 6, some 7, some 8,
   some 0x100, some 0x101, some 0x102, some 0x103, some 0x104, some 0x105, some 0x106, some 0x107, some 0x108]

/-- `CHMAP_PITCH` (R249). -/
def refChmapPitch : List (Option (BitVec 9)) := chanOffs0to17 ++ [some 6, some 7, some 8, some 8, some 7]

/-- `CHMAP_PAN` (R250). -/
def refChmapPan : List (Option (BitVec 9)) := chanOffs0to17 ++ [none, none, none, none, none]

/-- `FOUROP_FIRST` (R244). -/
def refFouropFirst : List Nat := (List.range 36).map fun k => k / 6 * 23 + [0, 1, 2, 9, 10, 11].getD (k % 6) 0

/-- The register bank bases (R252). -/
def refBanks : Banks where
  char   := 0x20
  level  := 0x40
  env1   := 0x60
  env2   := 0x80
  wave   := 0xE0
  freqLo := 0xA0
  freqHi := 0xB0
  fbconn := 0xC0

/-- The set `REF` (00_scope.md R8) with the given straps, which the spec calls test-dependent. -/
def refParams (capChiptype capFullpan : Bool) : Params where
  spc         := 23
  fine        := 32
  freqModels  := [.refExp, .refSemi]
  volModels   := [.refLin, .refCar]
  opmapStd    := refOpmapStd
  opmapInv    := refOpmapInv
  chmapPitch  := refChmapPitch
  chmapPan    := refChmapPan
  fouropFirst := refFouropFirst
  fouropDelta := 3
  banks       := refBanks
  capChiptype := capChiptype
  capFullpan  := capFullpan

end Sys2Proof.Machine
end

