-- ==== Sys2Proof/Machine/State.lean ====
section
/-! DEFINITION. The state of FMVA (10_state.md R20) as plain data, the reasons a step can stop, and the state after
pin reset. -/

namespace Sys2Proof.Machine

open Sys2Proof

/-- The state of FMVA: the eight groups of 10_state.md R20, and three fields of the model's own: `hw`, `out` and
`inputs` (INVENTORY.md, log entries 1, 3 and 4). -/
structure State where
  /-- The parameters and straps of this build, constant in every run (00_scope.md R8, log entry 4). -/
  hw      : Params
  /-- The configuration registers (R21). -/
  cfg     : Cfg
  /-- The voice table, `NV_MAX` entries (R30). -/
  voices  : List Voice
  /-- `FREE`, oldest-freed first (R35). -/
  free    : List Nat
  /-- `ACTIVE[0..15]`, each in the order its voices were bound (R36). -/
  active  : Vector (List Nat) 16
  /-- `Chan[0..15]` (R40). -/
  chans   : Vector Chan 16
  /-- `SHADOW` (R45). -/
  shadow  : Memory
  /-- `CFGERR`, `ERRCODE`, `ERRCMD` (R46). -/
  cfgerr  : Bool
  errcode : BitVec 3
  errcmd  : Word
  /-- The bytes of the timbre RAM that TBWR has written (20_memory.md R70, log entry 6). -/
  ram     : Memory
  /-- Every item the backend has accepted, oldest first (20_memory.md R84, log entry 3). -/
  out     : List OutItem
  /-- What the host will do at the command port and the `rst` pin, next first (log entry 1). -/
  inputs  : List HostInput
  deriving DecidableEq, Repr

/-- The reasons the machine stops with a fault: none. FMVA's one fault, Misconfig, is a latch and a next state
(60_exceptions.md R324), and there is no state in which it stops accepting commands (R327). -/
inductive Fault where
  deriving DecidableEq, Repr

/-- The reasons an instruction has no meaning. -/
inductive Refusal where
  /-- Raised only by an arm of `exec` whose instruction has no meaning yet, which is no arm of this model; safe. -/
  | notModelled (mnemonic : String)
  deriving DecidableEq, Repr

/-- The state pin reset leaves on a machine built with `p`, with nothing written to the timbre RAM, nothing emitted
and nothing offered (10_state.md R55, 70_reset_and_hazards.md R350, R354). -/
def State.resetOf (p : Params) : State where
  hw      := p
  cfg     := Cfg.pinReset
  voices  := freshVoices p Cfg.pinReset
  free    := freshFree p Cfg.pinReset
  active  := Vector.replicate 16 []
  chans   := Vector.replicate 16 Chan.default
  shadow  := []
  cfgerr  := false
  errcode := 0
  errcmd  := 0
  ram     := []
  out     := []
  inputs  := []

/-- The machine right after reset. The parameters are `REF` with `CAP_CHIPTYPE = 1` and `CAP_FULLPAN = 0`, the set
that 95_test_vectors.md section 1 starts from (DESIGN CHOICE, log entry 4). -/
def State.reset : State := State.resetOf (refParams true false)

end Sys2Proof.Machine
end

