-- ==== Sys2Proof/Machine/Operands.lean ====
section
/-! DEFINITION. How operands are formed: the seven-bit data bytes of events, the quantities 30_encoding.md R106 builds
from fields, sign extension and clamping (00_scope.md R10, R11), and the named bytes of a timbre record. -/

namespace Sys2Proof.Machine

open Sys2Proof

/-- The seven-bit check on one data byte (30_encoding.md R107). -/
def isSeven (x : Byte) : Bool := decide (x.toNat ≤ 127)

/-- A data byte that passed the check, as the 7-bit quantity it carries (30_encoding.md R102). -/
def seven (x : Byte) : BitVec 7 := x.setWidth 7

/-- `sext_8` (00_scope.md R11). -/
def sext8 (x : Byte) : Int := x.toInt

/-- `clamp(x, lo, hi)` (00_scope.md R10). -/
def clamp (x lo hi : Int) : Int := if x < lo then lo else if hi < x then hi else x

/-- The pitch-bend value `(msb << 7) | lsb` (20_memory.md R81, 41_event_commands.md R183). -/
def bendValue (lsb msb : BitVec 7) : BitVec 14 := msb ++ lsb

/-- The staged RPN `(rpnMsb << 7) | rpnLsb` (20_memory.md R81). -/
def Chan.rpn (k : Chan) : BitVec 14 := k.rpnMsb ++ k.rpnLsb

/-- `detune`, `val − 64` as a signed 7-bit number, −64..63 (30_encoding.md R106, 41_event_commands.md R170). -/
def detuneOf (val : BitVec 7) : BitVec 7 := BitVec.ofInt 7 ((val.toNat : Int) - 64)

/-- `TimbreIndex(ch, key)` (41_event_commands.md R153), `prog` the channel's program. -/
def timbreIndex (ch : BitVec 4) (key prog : BitVec 7) : BitVec 9 :=
  if ch = Config.PERC_CH then 128 + key.setWidth 9 else prog.setWidth 9

/-- The named bytes of a timbre record, the modulator's (0) before the carrier's (1) in each pair (20_memory.md R71). -/
inductive TimbreField where
  | char (op : Fin 2)
  | level (op : Fin 2)
  | env1 (op : Fin 2)
  | env2 (op : Fin 2)
  | wave (op : Fin 2)
  | fbconn
  | transpose
  | veloff
  deriving DecidableEq, Repr

/-- The byte's offset within its record (20_memory.md R71). -/
def timbreOffset : TimbreField → Nat
  | .char op => op.val
  | .level op => 2 + op.val
  | .env1 op => 4 + op.val
  | .env2 op => 6 + op.val
  | .wave op => 8 + op.val
  | .fbconn => 10
  | .transpose => 11
  | .veloff => 12

/-- The RAM address of a named byte of record `t` (20_memory.md R70, R71). -/
def timbreAddr (t : BitVec 9) (f : TimbreField) : Nat := Config.TREC * t.toNat + timbreOffset f

/-- The output address of offset `off` on chip `chip` (00_scope.md R14, 20_memory.md R78). -/
def outAddr (chip off : Nat) : BitVec 16 := BitVec.ofNat 16 ((chip <<< 9) ||| off)

/-- The offset `bank + o`, or `NP` (44_register_mapper.md R252, R253). -/
def regAt (bank : BitVec 9) (o : Option (BitVec 9)) : Option Nat := o.map fun x => bank.toNat + x.toNat

/-- The level register's byte: the record's bits 7:6, the lookup's result below (44_register_mapper.md R263). -/
def levelByte (level : Byte) (att : BitVec 6) : Byte := (level &&& 0xC0) ||| att.setWidth 8

/-- The feedback/connection register's byte: the record's bits 3:0 and the pan bits (44_register_mapper.md R260). -/
def fbconnByte (fbconn panBits : Byte) : Byte := (fbconn &&& 0x0F) ||| panBits

/-- The low frequency byte `p[7:0]` (44_register_mapper.md R266). -/
def freqLoByte (p : BitVec 13) : Byte := p.extractLsb' 0 8

/-- The high frequency byte `{0, 0, keyon, block, fnum[9:8]}` (44_register_mapper.md R266, R267). -/
def freqHiByte (keyon : Bool) (p : BitVec 13) : Byte :=
  (if keyon then 0x20 else 0x00) ||| (p.extractLsb' 8 5).setWidth 8

end Sys2Proof.Machine
end

