-- ==== Sys2Proof/Machine/Flags.lean ====
section
/-! DEFINITION. FMVA has no condition codes (10_state.md R48). Its status is `CFGERR` with the cause that `ERRCODE`
holds: the causes of the Misconfig trap, the checks that raise them, the gate `CFGERR` puts before the events, and the
status outputs. -/

namespace Sys2Proof.Machine

open Sys2Proof

/-- The causes of the Misconfig trap (60_exceptions.md R321). -/
inductive Cause where
  | badreg
  | value
  | chips
  | fouropCount
  | fouropCap
  | model
  deriving DecidableEq, Repr

/-- `ERRCODE` of a cause (60_exceptions.md R321). -/
def Cause.code : Cause → BitVec 3
  | .badreg => 1
  | .value => 2
  | .chips => 3
  | .fouropCount => 4
  | .fouropCap => 5
  | .model => 6

/-- The checks of CFG in the order written, the first that fails giving the cause, `none` when the write is valid
(45_backend_and_system_commands.md R292, 60_exceptions.md R322). -/
def cfgCause (p : Params) (c : Cfg) (idx : BitVec 4) (val : BitVec 8) : Option Cause :=
  let v := val.toNat
  match idx.toNat with
  | 0 => if v > 1 then some .value else none
  | 1 => if v > 1 then some .value else none
  | 2 => if v > 15 then some .value else none
  | 3 => if v ≥ p.nfreq then some .model else none
  | 4 => if v ≥ p.nvol then some .model else none
  | 5 =>
    if v < 1 ∨ v > Config.MAX_CHIPS then some .chips
    else if c.n4op.toNat > 6 * v then some .fouropCount
    else none
  | 6 =>
    if v > 0 ∧ p.capChiptype = false then some .fouropCap
    else if v > 6 * c.nchips.toNat then some .fouropCount
    else none
  | 7 => if v > 1 then some .value else none
  | 8 => if v > 1 then some .value else none
  | 9 => if v > 127 then some .value else none
  | _ => some .badreg

/-- The gates common to the five events: what an event does to the state happens only while `CFGERR = 0`
(60_exceptions.md R326) and only if its data bytes passed the seven-bit check (30_encoding.md R107); otherwise the
command does nothing (41_event_commands.md R150). -/
def gated (bytesOk : Bool) (effect : State → State) (s : State) : State :=
  if s.cfgerr then s else if bytesOk then effect s else s

/-- What the status outputs show (45_backend_and_system_commands.md R280, R283) between two commands: the command port
is ready, FMVA is not busy, no item is offered (R281, R282). -/
structure Status where
  cmdReady : Bool
  busy     : Bool
  outValid : Bool
  cfgError : Bool
  errCode  : BitVec 3
  errCmd   : Word
  deriving DecidableEq, Repr

/-- The status outputs of a state. -/
def State.status (s : State) : Status where
  cmdReady := true
  busy     := false
  outValid := false
  cfgError := s.cfgerr
  errCode  := s.errcode
  errCmd   := s.errcmd

end Sys2Proof.Machine
end

