-- ==== Sys2Proof/Machine/Ops.lean ====
section
/-! DEFINITION. The named operations every meaning is written over: the tables, the timbre RAM, the output port, the
Misconfig trap and the return from it, the resets, and the command port. -/

namespace Sys2Proof.Machine

open Sys2Proof

/-! ### The tables (00_scope.md R12) -/

/-- `Voice[v]`. An index outside the table, which no list of a reachable state holds, reads as a voice no rule has
touched (log entry 7). -/
def State.voice (s : State) (v : Nat) : Voice := s.voices.getD v (Voice.fresh .regular true)

/-- Writes `Voice[v]` as a whole. -/
def State.setVoice (s : State) (v : Nat) (x : Voice) : State := { s with voices := s.voices.set v x }

/-- `Chan[c]`. -/
def State.chan (s : State) (c : BitVec 4) : Chan := s.chans[c.toNat]'(c.isLt)

/-- Writes `Chan[c]` as a whole. -/
def State.setChan (s : State) (c : BitVec 4) (k : Chan) : State := { s with chans := s.chans.set c.toNat k c.isLt }

/-- `ACTIVE[c]`. -/
def State.activeOf (s : State) (c : BitVec 4) : List Nat := s.active[c.toNat]'(c.isLt)

/-- Writes `ACTIVE[c]`. -/
def State.setActive (s : State) (c : BitVec 4) (l : List Nat) : State :=
  { s with active := s.active.set c.toNat l c.isLt }

/-- Writes `FREE`. -/
def State.setFree (s : State) (l : List Nat) : State := { s with free := l }

/-- `for each active voice v` of channel `c`: head to tail, the list as it stands when the command starts
(41_event_commands.md R165). -/
def State.forActive (s : State) (c : BitVec 4) (f : State → Nat → State) : State := (s.activeOf c).foldl f s

/-! ### The timbre RAM (00_scope.md R13) -/

/-- `MemRead(a, 1)`: the byte TBWR last wrote there, else what the RAM held at power-on (20_memory.md R75). -/
def State.ramByte (s : State) (a : Nat) : Byte := (Memory.read ramUnlisted s.ram a).getD (Config.timbreInit a)

/-- `MemWrite(a, 1, v)`. -/
def State.ramWrite (s : State) (a : Nat) (v : Byte) : State := { s with ram := Memory.write ramUnlisted s.ram a v }

/-- `Trec(t).f` (00_scope.md R13). Where `t` names no record the address is outside the RAM, where nothing is known of
the byte; no run gets there (10_state.md R34, log entry 7). -/
def State.trec (s : State) (t : BitVec 9) (f : TimbreField) : Byte := s.ramByte (timbreAddr t f)

/-! ### The output port (00_scope.md R14) -/

/-- `Emit(REG, addr, data)`: appends the item and sets `SHADOW[addr]`. -/
def State.emitReg (s : State) (addr : BitVec 16) (data : Byte) : State :=
  { s with
    out := s.out ++ [OutItem.reg addr data]
    shadow := Memory.write shadowUnlisted s.shadow addr.toNat data }

/-- `Emit(PAN, addr, data)`. -/
def State.emitPan (s : State) (addr : BitVec 16) (data : Byte) : State :=
  { s with out := s.out ++ [OutItem.pan addr data] }

/-- `Emit(RST, 0, 0)`. -/
def State.emitRst (s : State) : State := { s with out := s.out ++ [OutItem.rst] }

/-- `WriteReg(chip, off, data)`; with `off = NP` nothing is emitted and nothing changes (44_register_mapper.md R253). -/
def State.writeReg (s : State) (chip : Nat) (off : Option Nat) (data : Byte) : State :=
  match off with
  | none => s
  | some o => s.emitReg (outAddr chip o) data

/-- `SHADOW[addr]`. -/
def State.shadowByte (s : State) (addr : BitVec 16) : Byte := (Memory.read shadowUnlisted s.shadow addr.toNat).getD 0

/-- For every addr: `SHADOW[addr] <- 0`. -/
def State.clearShadow (s : State) : State := { s with shadow := [] }

/-! ### The Misconfig trap -/

/-- `raise Misconfig(code)` in a CFG whose command word is `w` (60_exceptions.md R324): the first error since
`CFGERR` was last 0 is latched, a later one writes nothing (R327). -/
def State.raiseMisconfig (s : State) (cause : Cause) (w : Word) : State :=
  if s.cfgerr then s else { s with cfgerr := true, errcode := cause.code, errcmd := w }

/-- The end of the error state, part of every full reset and of pin reset (60_exceptions.md R325). -/
def State.clearErrors (s : State) : State := { s with cfgerr := false, errcode := 0, errcmd := 0 }

/-! ### Resets (70_reset_and_hazards.md) -/

/-- `StateReset()` (R354), Recategorise included: voice pool and channel state. -/
def State.stateReset (s : State) : State :=
  { s with
    voices := freshVoices s.hw s.cfg
    free := freshFree s.hw s.cfg
    active := Vector.replicate 16 []
    chans := Vector.replicate 16 Chan.default }

/-- The 4-operator enable mask of a chip (R353). -/
def fouropMask (c : Cfg) (chip : Nat) : Byte :=
  (List.range 6).foldl (fun m j => if 6 * chip + j < c.n4op.toNat then m ||| (1 <<< j) else m) 0

/-- `InitChip(chip)` (R353). The addresses are those of the rule, which gives them no name among the parameters of
00_scope.md R8 (log entry 15). -/
def State.initChip (s : State) (chip : Nat) : State :=
  let s :=
    if s.hw.capChiptype then
      (s.writeReg chip (some 0x105) 0x01).writeReg chip (some 0x104) (fouropMask s.cfg chip)
    else s.writeReg chip (some 0x001) 0x20
  s.writeReg chip (some 0x0BD) (if s.cfg.rhythm then 0x20 else 0x00)

/-- `FullReset()` (R351, R352). -/
def State.fullReset (s : State) : State :=
  let s := s.emitRst.clearShadow.clearErrors
  ((List.range s.cfg.nchips.toNat).foldl State.initChip s).stateReset

/-- Pin reset (R350): every register and table to its reset value, nothing emitted, the timbre RAM untouched. -/
def State.pinReset (s : State) : State := ({ s with cfg := Cfg.pinReset }).clearErrors.clearShadow.stateReset

/-! ### The command port (45_backend_and_system_commands.md R281; log entry 1) -/

/-- What the host does next, and the state once FMVA has taken it. -/
def State.takeInput (s : State) : Option (HostInput × State) :=
  match s.inputs with
  | [] => none
  | i :: rest => some (i, { s with inputs := rest })

/-- The state in which the host offers the command word `w` before all else. -/
def State.offerFirst (s : State) (w : Word) : State := { s with inputs := .command w :: s.inputs }

end Sys2Proof.Machine
end

