-- ==== Sys2Proof/Machine/Frequency.lean ====
section
/-! DEFINITION. The frequency lookup and the pitch arithmetic (42_frequency_model.md, 41_event_commands.md R185). -/

namespace Sys2Proof.Machine

open Sys2Proof

/-- One model's table at `(n, f)` (42_frequency_model.md R202). -/
def FreqModel.lookup (m : FreqModel) (n f : Nat) : BitVec 13 :=
  match m with
  | .refExp => refExp n f
  | .refSemi => refSemi n f
  | .given k => Config.freqRom k n f

/-- `FREQ_ROM[m](n, f)` (R202). No model has a number of `NFREQ` or more, and no configuration selects one
(10_state.md R26); the value there would be free. -/
def freqRom (p : Params) (m n f : Nat) : BitVec 13 := FreqModel.lookup (p.freqModels.getD m (.given m)) n f

/-- The total bend `T` in fine steps (41_event_commands.md R185), floor division (00_scope.md R10). -/
def bendSteps (fine : Nat) (bend : BitVec 14) (semis cents : BitVec 7) : Int :=
  let b : Int := (bend.toNat : Int) - 8192
  let range : Int := (semis.toNat : Int) * 100 + (cents.toNat : Int)
  b * range * (fine : Int) / 819200

/-- `BendCalc` on one channel (R185): `keyOffset` and `keyDetune` from `bend` and the bend range. -/
def bendCalc (fine : Nat) (k : Chan) : Chan :=
  let t := bendSteps fine k.bend k.bendSemis k.bendCents
  { k with keyOffset := BitVec.ofInt 9 (t / (fine : Int)), keyDetune := (t % (fine : Int)).toNat }

/-- The pitch position `P` before the clamp (42_frequency_model.md R204), `x` the voice and `k` its channel. -/
def pitchSum (fine : Nat) (x : Voice) (k : Chan) (transpose : Byte) : Int :=
  ((x.key.toNat : Int) + sext8 transpose + k.keyOffset.toInt) * (fine : Int) + (k.keyDetune : Int) + k.detune.toInt

/-- The clamped position (R204, R205). -/
def pitchPosition (fine : Nat) (x : Voice) (k : Chan) (transpose : Byte) : Int :=
  clamp (pitchSum fine x k transpose) 0 (128 * (fine : Int) - 1)

/-- `NotePos(v)`: the note `n` and the fraction `f` (R204). -/
def State.notePos (s : State) (v : Nat) : Nat × Nat :=
  let x := s.voice v
  let pos := pitchPosition s.hw.fine x (s.chan x.chanIndex) (s.trec x.timbre .transpose)
  ((pos / (s.hw.fine : Int)).toNat, (pos % (s.hw.fine : Int)).toNat)

/-- The 13 bits ApplyPitch looks up for voice `v` (R203, 44_register_mapper.md R266). -/
def State.lookupPitch (s : State) (v : Nat) : BitVec 13 :=
  freqRom s.hw s.cfg.freqsel.toNat (s.notePos v).1 (s.notePos v).2

end Sys2Proof.Machine
end

