-- ==== Sys2Proof/Machine/Volume.lean ====
section
/-! DEFINITION. The volume lookup and how its inputs are prepared (43_volume_model.md). -/

namespace Sys2Proof.Machine

open Sys2Proof

/-- One model's function (43_volume_model.md R222). -/
def VolModel.lookup (m : VolModel) (x : VolumeInput) : Attenuation :=
  match m with
  | .refLin => refLin x
  | .refCar => refCar x
  | .given k => Config.volFn k x

/-- `VOL_FN[m]` (R222). No model has a number of `NVOL` or more, and no configuration selects one (10_state.md R26);
the value there would be free. -/
def volFn (p : Params) (m : Nat) (x : VolumeInput) : Attenuation := VolModel.lookup (p.volModels.getD m (.given m)) x

/-- `velp` (R223). -/
def velocityPlus (vel : BitVec 7) (veloff : Byte) : BitVec 7 :=
  BitVec.ofInt 7 (clamp ((vel.toNat : Int) + sext8 veloff) 0 127)

/-- The ten inputs for voice `v` (R222, 44_register_mapper.md R263). -/
def State.volumeInput (s : State) (v : Nat) : VolumeInput :=
  let x := s.voice v
  let k := s.chan x.chanIndex
  { velp     := velocityPlus x.vel (s.trec x.timbre .veloff)
    vol      := k.volume
    expr     := k.expression
    master   := s.cfg.mastervol
    bright   := k.brightness
    tlMod    := (s.trec x.timbre (.level 0)).setWidth 6
    tlCar    := (s.trec x.timbre (.level 1)).setWidth 6
    conn     := (s.trec x.timbre .fbconn).getLsbD 0
    additive := s.cfg.additive
    cat      := x.cat }

/-- The two attenuations ApplyVolume writes for voice `v` (44_register_mapper.md R263). -/
def State.attenuation (s : State) (v : Nat) : Attenuation := volFn s.hw s.cfg.volsel.toNat (s.volumeInput v)

end Sys2Proof.Machine
end

