-- ==== Sys2Proof/Machine/Mapper.lean ====
section
/-! DEFINITION. The register maps and the five write procedures (44_register_mapper.md). -/

namespace Sys2Proof.Machine

open Sys2Proof

/-! ### The maps -/

/-- The chip of a global slot (44_register_mapper.md R240). -/
def State.chipOf (s : State) (v : Nat) : Nat := v / s.hw.spc

/-- The local slot of a global slot (R240). -/
def State.localSlot (s : State) (v : Nat) : Nat := v % s.hw.spc

/-- A chip without a second register set has no offset of `0x100` or more (R251). -/
def singlePort (p : Params) (o : Option (BitVec 9)) : Option (BitVec 9) :=
  o.filter fun x => p.capChiptype || decide (x.toNat < 0x100)

/-- One row of the operator map `OPMODE` selects (R246). -/
def State.opRow (s : State) (ls : Nat) : OpRow :=
  (if s.cfg.opmode then s.hw.opmapInv else s.hw.opmapStd).getD ls ⟨none, none⟩

/-- `MapOp(v, op)` (R246): operators 0 and 1 are the slot's own, 2 and 3 those of a 4-operator pair's second half. -/
def State.mapOp (s : State) (v : Nat) (op : Fin 4) : Option (BitVec 9) :=
  let ls := s.localSlot v
  let isFirst := decide ((s.voice v).cat = .fourOpFirst)
  singlePort s.hw <|
    match op with
    | 0 => (s.opRow ls).mod
    | 1 => (s.opRow ls).car
    | 2 => if isFirst then (s.opRow (ls + s.hw.fouropDelta)).mod else none
    | 3 => if isFirst then (s.opRow (ls + s.hw.fouropDelta)).car else none

/-- `MapPitch(v)` (R249). -/
def State.mapPitch (s : State) (v : Nat) : Option (BitVec 9) :=
  singlePort s.hw (s.hw.chmapPitch.getD (s.localSlot v) none)

/-- `MapPan(v)` (R250). -/
def State.mapPan (s : State) (v : Nat) : Option (BitVec 9) :=
  singlePort s.hw (s.hw.chmapPan.getD (s.localSlot v) none)

/-- `WriteReg` of voice `v`'s register at map result `o` of a bank (R252, R253). -/
def State.writeVoiceReg (s : State) (v : Nat) (bank : BitVec 9) (o : Option (BitVec 9)) (data : Byte) : State :=
  s.writeReg (s.chipOf v) (regAt bank o) data

/-! ### The write procedures -/

/-- `PanBits(c)` (R268). -/
def State.panBits (s : State) (c : BitVec 4) : Byte :=
  if s.cfg.stereo = false ∨ s.hw.capFullpan = true then 0x30
  else
    (if (s.chan c).pan.toNat < 96 then 0x10 else 0x00) ||| (if (s.chan c).pan.toNat ≥ 32 then 0x20 else 0x00)

/-- The four timbre-phase writes of operator `op`: `CHAR`, `ENV1`, `ENV2`, `WAVE` (R260). -/
def State.applyOperator (s : State) (v : Nat) (t : BitVec 9) (op : Fin 2) : State :=
  let o := s.mapOp v (op.castLE (by decide))
  let s := s.writeVoiceReg v s.hw.banks.char o (s.trec t (.char op))
  let s := s.writeVoiceReg v s.hw.banks.env1 o (s.trec t (.env1 op))
  let s := s.writeVoiceReg v s.hw.banks.env2 o (s.trec t (.env2 op))
  s.writeVoiceReg v s.hw.banks.wave o (s.trec t (.wave op))

/-- `ApplyTimbre(v, t)`, the timbre phase (R260), skipped when the voice's registers hold record `t` already (R261). -/
def State.applyTimbre (s : State) (v : Nat) (t : BitVec 9) : State :=
  if (s.voice v).timbre = t then s
  else
    let s := s.setVoice v { s.voice v with timbre := t }
    let s := (s.applyOperator v t 0).applyOperator v t 1
    s.writeVoiceReg v s.hw.banks.fbconn (s.mapPan v)
      (fbconnByte (s.trec t .fbconn) (s.panBits (s.voice v).chanIndex))

/-- `ApplyVolume(v)`, the volume phase: modulator, then carrier (R263). -/
def State.applyVolume (s : State) (v : Nat) : State :=
  let t := (s.voice v).timbre
  let att := s.attenuation v
  let s := s.writeVoiceReg v s.hw.banks.level (s.mapOp v 0) (levelByte (s.trec t (.level 0)) att.mod6)
  s.writeVoiceReg v s.hw.banks.level (s.mapOp v 1) (levelByte (s.trec t (.level 1)) att.car6)

/-- `ApplyPitch(v, keyon)`, the pitch phase: low byte, then high byte (R266). -/
def State.applyPitch (s : State) (v : Nat) (keyon : Bool) : State :=
  let p := s.lookupPitch v
  let s := s.setVoice v { s.voice v with pitch := p }
  let s := s.writeVoiceReg v s.hw.banks.freqLo (s.mapPitch v) (freqLoByte p)
  s.writeVoiceReg v s.hw.banks.freqHi (s.mapPitch v) (freqHiByte keyon p)

/-- `KeyOffWrite(v)` (R267). -/
def State.keyOffWrite (s : State) (v : Nat) : State :=
  s.writeVoiceReg v s.hw.banks.freqHi (s.mapPitch v) (freqHiByte false (s.voice v).pitch)

/-- `ApplyPan(v)`, the pan phase (R269). -/
def State.applyPan (s : State) (v : Nat) : State :=
  let x := s.voice v
  match regAt s.hw.banks.fbconn (s.mapPan v) with
  | none => s
  | some off =>
    let s' := s.writeReg (s.chipOf v) (some off) (fbconnByte (s.trec x.timbre .fbconn) (s.panBits x.chanIndex))
    if s.cfg.stereo = true ∧ s.hw.capFullpan = true then
      s'.emitPan (outAddr (s.chipOf v) off) ((s.chan x.chanIndex).pan.setWidth 8)
    else s'

/-- The four phases of a note start, in their fixed order (R270, 41_event_commands.md R151). -/
def State.startNote (s : State) (v : Nat) (t : BitVec 9) : State :=
  (((s.applyTimbre v t).applyVolume v).applyPitch v true).applyPan v

end Sys2Proof.Machine
end

