-- ==== Sys2Proof/Machine/Pool.lean ====
section
/-! DEFINITION. The voice pool: allocation, release, stealing (40_voice_pool.md), NOTEOFF's procedure, which a steal
runs too (41_event_commands.md R160), and the soft reset (70_reset_and_hazards.md R356). -/

namespace Sys2Proof.Machine

open Sys2Proof

/-- `Allocate()` (40_voice_pool.md R131): `none` is `Exhausted`. -/
def State.allocate (s : State) : Option Nat × State :=
  match s.free with
  | [] => (none, s)
  | v :: rest => (some v, s.setFree rest)

/-- `ReleaseVoice(v)` (R134), its writes in the rule's order. -/
def State.releaseVoice (s : State) (v : Nat) : State :=
  let c := (s.voice v).chanIndex
  let s := s.setVoice v { s.voice v with on := false }
  let s := s.keyOffWrite v
  let s := s.setActive c ((s.activeOf c).erase v)
  let s := s.setVoice v { s.voice v with owner := FREE_OWNER }
  s.setFree (s.free ++ [v])

/-- The first active voice of channel `ch` with key `key` (41_event_commands.md R160). -/
def State.findNote (s : State) (ch : BitVec 4) (key : BitVec 7) : Option Nat :=
  (s.activeOf ch).find? fun v => (s.voice v).key == key

/-- `NOTEOFF(ch, key, vel)` after the gates (R160); the velocity is unused. -/
def State.noteOff (s : State) (ch : BitVec 4) (key : BitVec 7) : State :=
  match s.findNote ch key with
  | some v => s.releaseVoice v
  | none => s

/-- `AllocateOrSteal()` (40_voice_pool.md R135). -/
def State.allocateOrSteal (s : State) : Option Nat × State :=
  match s.free with
  | _ :: _ => s.allocate
  | [] =>
    match s.activeOf Config.PERC_CH with
    | [] => (none, s)
    | h :: _ => (s.noteOff Config.PERC_CH (s.voice h).key).allocate

/-- `SoftReset()` (70_reset_and_hazards.md R356). -/
def State.softReset (s : State) : State :=
  ((List.range (s.cfg.nv s.hw)).foldl (fun s v => if (s.voice v).on then s.keyOffWrite v else s) s).stateReset

end Sys2Proof.Machine
end

