-- ==== Sys2Proof/Machine/Events.lean ====
section
/-! DEFINITION. The events NOTEON, NOTEOFF, PROG and BEND (41_event_commands.md). -/

namespace Sys2Proof.Machine

open Sys2Proof

/-- NOTEON's binding of a voice: owner, key, velocity, on, and the tail of the channel's list (R151). -/
def State.bindVoice (s : State) (v : Nat) (ch : BitVec 4) (key vel : BitVec 7) : State :=
  let s := s.setVoice v { s.voice v with owner := ch.setWidth 5, key := key, vel := vel, on := true }
  s.setActive ch (s.activeOf ch ++ [v])

/-- `NOTEON(ch, key, vel)` after the gates (R151). -/
def State.noteOn (s : State) (ch : BitVec 4) (key vel : BitVec 7) : State :=
  if s.cfg.maxchan < ch then s
  else if vel = 0 then s.noteOff ch key
  else
    match s.allocateOrSteal with
    | (none, s') => s'
    | (some v, s') => (s'.bindVoice v ch key vel).startNote v (timbreIndex ch key (s'.chan ch).program)

/-- `PROG(ch, prog)` after the gates (R182). -/
def State.progChange (s : State) (ch : BitVec 4) (prog : BitVec 7) : State :=
  s.setChan ch { s.chan ch with program := prog }

/-- Recomputes the bend offset of channel `ch` and rewrites the pitch of its sounding voices: what BEND and Data Entry
do once they have changed the channel (R176, R183). -/
def State.rebend (s : State) (ch : BitVec 4) (k : Chan) : State :=
  (s.setChan ch (bendCalc s.hw.fine k)).forActive ch fun s v => s.applyPitch v true

/-- `BEND(ch, lsb, msb)` after the gates (R183). -/
def State.pitchBend (s : State) (ch : BitVec 4) (lsb msb : BitVec 7) : State :=
  s.rebend ch { s.chan ch with bend := bendValue lsb msb }

/-- NOTEOFF (R160). -/
def execNoteoff (ch : BitVec 4) (key vel : Byte) (s : State) : Host.Outcome State Fault Refusal :=
  .next (gated (isSeven key && isSeven vel) (fun s => s.noteOff ch (seven key)) s)

/-- NOTEON (R151). -/
def execNoteon (ch : BitVec 4) (key vel : Byte) (s : State) : Host.Outcome State Fault Refusal :=
  .next (gated (isSeven key && isSeven vel) (fun s => s.noteOn ch (seven key) (seven vel)) s)

/-- PROG (R182); only `A` is checked (30_encoding.md R107). -/
def execProg (ch : BitVec 4) (prog : Byte) (s : State) : Host.Outcome State Fault Refusal :=
  .next (gated (isSeven prog) (fun s => s.progChange ch (seven prog)) s)

/-- BEND (R183). -/
def execBend (ch : BitVec 4) (lsb msb : Byte) (s : State) : Host.Outcome State Fault Refusal :=
  .next (gated (isSeven lsb && isSeven msb) (fun s => s.pitchBend ch (seven lsb) (seven msb)) s)

end Sys2Proof.Machine
end

