-- ==== Sys2Proof/Machine/Control.lean ====
section
/-! DEFINITION. The event CTRL (41_event_commands.md R165 to R180). -/

namespace Sys2Proof.Machine

open Sys2Proof

/-- The controllers with a rule (30_encoding.md R112). -/
inductive Controller where
  | dataEntryMsb
  | volume
  | pan
  | expression
  | dataEntryLsb
  | brightness
  | detune
  | rpnLsb
  | rpnMsb
  | resetAll
  | allNotesOff
  deriving DecidableEq, Repr

/-- The controller numbers (30_encoding.md R112). -/
def controllerTable : List (Nat × Controller) :=
  [(6, .dataEntryMsb), (7, .volume), (10, .pan), (11, .expression), (38, .dataEntryLsb), (74, .brightness),
   (94, .detune), (100, .rpnLsb), (101, .rpnMsb), (121, .resetAll), (123, .allNotesOff)]

/-- The controller with number `ctl`, if it has a rule. -/
def controllerOf (ctl : BitVec 7) : Option Controller := controllerTable.lookup ctl.toNat

/-- CTRL 123, All Notes Off (41_event_commands.md R171): releases the channel's voices oldest first. The rule's loop
takes the head until the list is empty; each release takes its own voice off the list, so the voices are those of the
list as it stands at the start (log entry 8). -/
def State.allNotesOff (s : State) (ch : BitVec 4) : State := s.forActive ch State.releaseVoice

/-- Changes channel `ch`, then rewrites the level registers of its sounding voices (R166, R167, R168). -/
def State.setVolumeField (s : State) (ch : BitVec 4) (k : Chan) : State :=
  (s.setChan ch k).forActive ch State.applyVolume

/-- What controller `ctl` with value `val` does on channel `ch` (R166 to R178). -/
def State.control (s : State) (ch : BitVec 4) (ctl : Controller) (val : BitVec 7) : State :=
  let k := s.chan ch
  match ctl with
  | .volume => s.setVolumeField ch { k with volume := val }
  | .expression => s.setVolumeField ch { k with expression := val }
  | .brightness => s.setVolumeField ch { k with brightness := val }
  | .pan => (s.setChan ch { k with pan := val }).forActive ch State.applyPan
  | .detune => (s.setChan ch { k with detune := detuneOf val }).forActive ch fun s v => s.applyPitch v true
  | .allNotesOff => s.allNotesOff ch
  | .resetAll => s.softReset
  | .rpnMsb => s.setChan ch { k with rpnMsb := val }
  | .rpnLsb => s.setChan ch { k with rpnLsb := val }
  | .dataEntryMsb => if k.rpn = 0 then s.rebend ch { k with bendSemis := val } else s
  | .dataEntryLsb => if k.rpn = 0 then s.rebend ch { k with bendCents := val } else s

/-- `CTRL(ch, ctl, val)` after the gates (R165); a number without a rule does nothing (R180). -/
def State.controlChange (s : State) (ch : BitVec 4) (ctl val : BitVec 7) : State :=
  match controllerOf ctl with
  | some k => s.control ch k val
  | none => s

/-- CTRL (R165). -/
def execCtrl (ch : BitVec 4) (ctl val : Byte) (s : State) : Host.Outcome State Fault Refusal :=
  .next (gated (isSeven ctl && isSeven val) (fun s => s.controlChange ch (seven ctl) (seven val)) s)

end Sys2Proof.Machine
end

