-- ==== Sys2Proof/Machine/System.lean ====
section
/-! DEFINITION. The system commands NOP, CFG, TBWR and RESET (45_backend_and_system_commands.md) and the reserved
opcodes (30_encoding.md R109). They run whether `CFGERR` is 0 or 1 (R300). -/

namespace Sys2Proof.Machine

open Sys2Proof

/-- NOP (R290). -/
def execNop (s : State) : Host.Outcome State Fault Refusal := .next s

/-- `CFG(idx, val)` whose command word is `w` (R292): the trap, or the register write and a full reset. -/
def State.configure (s : State) (idx : BitVec 4) (val : BitVec 8) (w : Word) : State :=
  match cfgCause s.hw s.cfg idx val with
  | some cause => s.raiseMisconfig cause w
  | none => ({ s with cfg := s.cfg.write idx val }).fullReset

/-- CFG (R292). `ERRCMD` gets the whole command word, ignored bits included (60_exceptions.md R324). -/
def execCfg (idx : BitVec 4) (val : BitVec 8) (z : BitVec 16) (s : State) : Host.Outcome State Fault Refusal :=
  .next (s.configure idx val (encode (.cfg idx val z)))

/-- `TBWR(addr, data)` (R296): an address past the end is ignored. -/
def State.timbreWrite (s : State) (addr : BitVec 12) (data : Byte) : State :=
  if addr.toNat < Config.TBYTES then s.ramWrite addr.toNat data else s

/-- TBWR (R296). -/
def execTbwr (addr : BitVec 12) (data : Byte) (s : State) : Host.Outcome State Fault Refusal :=
  .next (s.timbreWrite addr data)

/-- RESET (R298). -/
def execReset (s : State) : Host.Outcome State Fault Refusal := .next s.fullReset

/-- What a reserved opcode does (30_encoding.md R109): the command is consumed, and that is all. -/
def State.reservedOpcode (s : State) : State := s

/-- Opcode 0x3. -/
def execReserved3 (s : State) : Host.Outcome State Fault Refusal := .next s.reservedOpcode
/-- Opcode 0x4. -/
def execReserved4 (s : State) : Host.Outcome State Fault Refusal := .next s.reservedOpcode
/-- Opcode 0x5. -/
def execReserved5 (s : State) : Host.Outcome State Fault Refusal := .next s.reservedOpcode
/-- Opcode 0x6. -/
def execReserved6 (s : State) : Host.Outcome State Fault Refusal := .next s.reservedOpcode
/-- Opcode 0x7. -/
def execReserved7 (s : State) : Host.Outcome State Fault Refusal := .next s.reservedOpcode
/-- Opcode 0xA. -/
def execReservedA (s : State) : Host.Outcome State Fault Refusal := .next s.reservedOpcode
/-- Opcode 0xD. -/
def execReservedD (s : State) : Host.Outcome State Fault Refusal := .next s.reservedOpcode

end Sys2Proof.Machine
end

