-- ==== Sys2Proof/Machine/Dispatch.lean ====
section
/-! DEFINITION. The meaning of each command, one arm a constructor. -/

namespace Sys2Proof.Machine

open Sys2Proof

def exec (i : Instr) (s : State) : Host.Outcome State Fault Refusal :=
  match i with
  | .nop _ => Sys2Proof.Machine.execNop s
  | .cfg idx val z => Sys2Proof.Machine.execCfg idx val z s
  | .tbwr addr data _ => Sys2Proof.Machine.execTbwr addr data s
  | .reserved3 _ => Sys2Proof.Machine.execReserved3 s
  | .reserved4 _ => Sys2Proof.Machine.execReserved4 s
  | .reserved5 _ => Sys2Proof.Machine.execReserved5 s
  | .reserved6 _ => Sys2Proof.Machine.execReserved6 s
  | .reserved7 _ => Sys2Proof.Machine.execReserved7 s
  | .noteoff ch key vel _ => Sys2Proof.Machine.execNoteoff ch key vel s
  | .noteon ch key vel _ => Sys2Proof.Machine.execNoteon ch key vel s
  | .reservedA _ => Sys2Proof.Machine.execReservedA s
  | .ctrl ch ctl val _ => Sys2Proof.Machine.execCtrl ch ctl val s
  | .prog ch prog _ => Sys2Proof.Machine.execProg ch prog s
  | .reservedD _ => Sys2Proof.Machine.execReservedD s
  | .bend ch lsb msb _ => Sys2Proof.Machine.execBend ch lsb msb s
  | .reset _ => Sys2Proof.Machine.execReset s

end Sys2Proof.Machine
end

