-- ==== Sys2Proof/Machine/Step.lean ====
section
/-! DEFINITION. One step of FMVA: one accepted command (45_backend_and_system_commands.md R281), or one pulse of the
`rst` pin (70_reset_and_hazards.md R350), whichever the host does next. -/

namespace Sys2Proof.Machine

open Sys2Proof

/-- With nothing offered FMVA is idle and keeps all state (60_exceptions.md R339). -/
def step (s : State) : Host.Outcome State Fault Refusal :=
  match s.takeInput with
  | none => .next s
  | some (.rstPulse, s') => .next s'.pinReset
  | some (.command w, s') => exec (decode w) s'

/-- `s` with the command word whose bits are `w` offered before all else. A command is one word of 32 bits, and bits
above `nbits` are 0. -/
def State.withFetchWord (s : State) (nbits w : Nat) : State := s.offerFirst (BitVec.ofNat 32 (w % 2 ^ nbits))

end Sys2Proof.Machine
end

