-- ==== Sys2Proof/WellFormed.lean ====
section
/-! DEFINITION. Well-formedness: of a command as software should write it, and of the parameters of a build. -/

namespace Sys2Proof

/-- A command as 30_encoding.md R116's assembler writes it: every ignored bit 0 ("Software should write 0", R110) and
the opcode not a reserved one ("software must not rely on their doing nothing", R109). FMVA runs every other command
too (R111), so no meaning asks for this; the widths of the fields need no check, since their types fix them. -/
def Instr.wf : Instr → Bool
  | .nop z => z == 0
  | .cfg _ _ z => z == 0
  | .tbwr _ _ z => z == 0
  | .reserved3 _ => false
  | .reserved4 _ => false
  | .reserved5 _ => false
  | .reserved6 _ => false
  | .reserved7 _ => false
  | .noteoff _ _ _ z => z == 0
  | .noteon _ _ _ z => z == 0
  | .reservedA _ => false
  | .ctrl _ _ _ z => z == 0
  | .prog _ _ z => z == 0
  | .reservedD _ => false
  | .bend _ _ _ z => z == 0
  | .reset z => z == 0

namespace Params

/-- `SPC` and `FINE` are at least 1 (00_scope.md R8), and a global slot is an 8-bit number (10_state.md R30). -/
def sizesOk (p : Params) : Bool :=
  decide (1 ≤ p.spc) && decide (p.nvMax ≤ 256) && decide (1 ≤ p.fine)

/-- At least one model of each kind (00_scope.md R8); the `REF` frequency models have 32 fine steps (R206, R207). -/
def modelsOk (p : Params) : Bool :=
  decide (1 ≤ p.nfreq) && decide (1 ≤ p.nvol) &&
    p.freqModels.all fun m =>
      match m with
      | .refExp => p.fine == 32
      | .refSemi => p.fine == 32
      | .given _ => true

/-- Each map has an entry for every local slot (44_register_mapper.md R241, R246, R249, R250). -/
def mapsOk (p : Params) : Bool :=
  p.opmapStd.length == p.spc && p.opmapInv.length == p.spc &&
    p.chmapPitch.length == p.spc && p.chmapPan.length == p.spc

/-- `FOUROP_FIRST` has 36 entries (R244), and both halves of pair `k` lie on chip `k div 6`, so that `6 × n` is "the
number of entries of `FOUROP_FIRST` that lie on live chips" (45_backend_and_system_commands.md R292) and bit `j` of a
chip's mask is one of its own pairs (70_reset_and_hazards.md R353). Log entry 11. -/
def fouropOk (p : Params) : Bool :=
  p.fouropFirst.length == 6 * Config.MAX_CHIPS &&
    p.fouropFirst.zipIdx.all fun e => e.1 / p.spc == e.2 / 6 && (e.1 + p.fouropDelta) / p.spc == e.2 / 6

/-- Adding any of `offs` to the base `b` gives a 9-bit offset again (00_scope.md R14). -/
def bankOk (b : BitVec 9) (offs : List (Option (BitVec 9))) : Bool :=
  offs.all fun o =>
    match o with
    | none => true
    | some x => decide (b.toNat + x.toNat < 512)

/-- Every register address is a 9-bit offset (00_scope.md R14, 44_register_mapper.md R252). -/
def banksOk (p : Params) : Bool :=
  let ops := (p.opmapStd ++ p.opmapInv).flatMap fun r => [r.mod, r.car]
  [p.banks.char, p.banks.level, p.banks.env1, p.banks.env2, p.banks.wave].all (bankOk · ops) &&
    [p.banks.freqLo, p.banks.freqHi].all (bankOk · p.chmapPitch) && bankOk p.banks.fbconn p.chmapPan

/-- The parameter sets FMVA may be built with. A set that breaks this is ill-formed (93_implementation_defined.md U7;
log entry 12); the contracts on the lookups' results need no check, since their types fix them. -/
def wf (p : Params) : Bool := p.sizesOk && p.modelsOk && p.mapsOk && p.fouropOk && p.banksOk

end Params

end Sys2Proof
end

