-- ==== Sys2Proof/Safety.lean ====
section
/-! DEFINITION. The terms claims are stated in: the items each phase of a command emits, what `SHADOW` becomes under a
sequence of items, and the invariants of a consistent machine. A safe run is one whose every state is `Consistent`; no
run of FMVA stops, since no meaning faults. -/

namespace Sys2Proof.Machine

open Sys2Proof

/-! ### What the phases emit, in order (44_register_mapper.md R260 to R270) -/

/-- The item of one write to voice `v`'s register at map result `o` of a bank: none where the map gives `NP`. -/
def State.regItem (s : State) (v : Nat) (bank : BitVec 9) (o : Option (BitVec 9)) (data : Byte) : List OutItem :=
  match o with
  | none => []
  | some x => [OutItem.reg (outAddr (v / s.hw.spc) (bank.toNat + x.toNat)) data]

/-- The timbre phase's items (R260; items 1 to 9 of R270), when it is not skipped. -/
def State.timbrePhase (s : State) (v : Nat) : List OutItem :=
  let t := (s.voice v).timbre
  let b := s.hw.banks
  s.regItem v b.char (s.mapOp v 0) (s.trec t (.char 0)) ++ s.regItem v b.env1 (s.mapOp v 0) (s.trec t (.env1 0)) ++
  s.regItem v b.env2 (s.mapOp v 0) (s.trec t (.env2 0)) ++ s.regItem v b.wave (s.mapOp v 0) (s.trec t (.wave 0)) ++
  s.regItem v b.char (s.mapOp v 1) (s.trec t (.char 1)) ++ s.regItem v b.env1 (s.mapOp v 1) (s.trec t (.env1 1)) ++
  s.regItem v b.env2 (s.mapOp v 1) (s.trec t (.env2 1)) ++ s.regItem v b.wave (s.mapOp v 1) (s.trec t (.wave 1)) ++
  s.regItem v b.fbconn (s.mapPan v) ((s.trec t .fbconn &&& 0x0F) ||| s.panBits (s.voice v).chanIndex)

/-- The volume phase's items (R263; items 10 and 11 of R270). -/
def State.volumePhase (s : State) (v : Nat) : List OutItem :=
  let t := (s.voice v).timbre
  s.regItem v s.hw.banks.level (s.mapOp v 0)
    ((s.trec t (.level 0) &&& 0xC0) ||| (s.attenuation v).mod6.setWidth 8) ++
  s.regItem v s.hw.banks.level (s.mapOp v 1)
    ((s.trec t (.level 1) &&& 0xC0) ||| (s.attenuation v).car6.setWidth 8)

/-- The pitch phase's items with the key-on bit 1 (R266; items 12 and 13 of R270). -/
def State.pitchPhase (s : State) (v : Nat) : List OutItem :=
  s.regItem v s.hw.banks.freqLo (s.mapPitch v) ((s.lookupPitch v).extractLsb' 0 8) ++
  s.regItem v s.hw.banks.freqHi (s.mapPitch v) (0x20 ||| ((s.lookupPitch v).extractLsb' 8 5).setWidth 8)

/-- The pan phase's items (R269; items 14 and 15 of R270). -/
def State.panPhase (s : State) (v : Nat) : List OutItem :=
  match s.mapPan v with
  | none => []
  | some x =>
    let addr := outAddr (v / s.hw.spc) (s.hw.banks.fbconn.toNat + x.toNat)
    let c := (s.voice v).chanIndex
    OutItem.reg addr ((s.trec (s.voice v).timbre .fbconn &&& 0x0F) ||| s.panBits c) ::
      if s.cfg.stereo = true ∧ s.hw.capFullpan = true then [OutItem.pan addr ((s.chan c).pan.setWidth 8)] else []

/-- The key-off item (R267): the high frequency byte last written with the key-on bit 0. -/
def State.keyOffItem (s : State) (v : Nat) : List OutItem :=
  s.regItem v s.hw.banks.freqHi (s.mapPitch v) (((s.voice v).pitch.extractLsb' 8 5).setWidth 8)

/-- Every item a note on voice `v` can send: the four phases of its start and its key-off. -/
def State.voiceItems (s : State) (v : Nat) : List OutItem :=
  s.timbrePhase v ++ s.volumePhase v ++ s.pitchPhase v ++ s.panPhase v ++ s.keyOffItem v

/-- The items of InitChip (70_reset_and_hazards.md R353) under configuration `c`. -/
def initItems (p : Params) (c : Cfg) (chip : Nat) : List OutItem :=
  (if p.capChiptype then
     [OutItem.reg (outAddr chip 0x105) 0x01, OutItem.reg (outAddr chip 0x104) (fouropMask c chip)]
   else [OutItem.reg (outAddr chip 0x001) 0x20]) ++
  [OutItem.reg (outAddr chip 0x0BD) (if c.rhythm then 0x20 else 0x00)]

/-- The items of a full reset (R351): `RST`, then each live chip's, ascending. -/
def fullResetItems (p : Params) (c : Cfg) : List OutItem :=
  OutItem.rst :: (List.range c.nchips.toNat).flatMap (initItems p c)

/-! ### The shadow as a function of the output (10_state.md R45) -/

/-- What one item does to `SHADOW`: a register write sets its address, a backend reset clears all, a pan item nothing. -/
def shadowStep (m : Memory) (x : OutItem) : Memory :=
  match x.kind with
  | .reg => Memory.write shadowUnlisted m x.addr.toNat x.data
  | .pan => m
  | .rst => []

/-- `SHADOW` after a sequence of items. -/
def shadowAfter (m : Memory) (items : List OutItem) : Memory := items.foldl shadowStep m

/-! ### What a reset leaves, and the causes of the trap, as the spec's tables give them -/

/-- A channel at the values of 10_state.md R40. -/
abbrev ChanAtDefaults (k : Chan) : Prop :=
  k = { program := 0, volume := 100, expression := 127, brightness := 127, pan := 64, detune := 0, bendSemis := 2,
        bendCents := 0, rpnMsb := 127, rpnLsb := 127, bend := 8192, keyOffset := 0, keyDetune := 0 }

/-- What StateReset leaves (70_reset_and_hazards.md R354, 10_state.md R55): every voice at its reset values with the
category and reservation of its slot, `FREE` the live unreserved voices ascending, every active list empty, every
channel at its defaults. -/
structure PoolReset (t : State) : Prop where
  table  : t.voices.length = t.hw.nvMax
  voices : ∀ v, v < t.hw.nvMax →
    t.voice v =
      { owner := 16, key := 0, vel := 0, timbre := 0x100, on := false, pitch := 0,
        cat := categoryAt t.hw t.cfg v, reserved := reservedAt t.hw t.cfg v }
  sorted : t.free.Pairwise (· < ·)
  free   : ∀ v, v ∈ t.free ↔ v < t.cfg.nchips.toNat * t.hw.spc ∧ reservedAt t.hw t.cfg v = false
  active : ∀ c, t.activeOf c = []
  chans  : ∀ c, ChanAtDefaults (t.chan c)

/-- What a full reset does from `s`, whose configuration registers hold what they hold after it (R351, R352): `RST` and
the init writes go out, `SHADOW` holds exactly those writes, the error registers are 0, the pool and the channels are
reset, and the build, the configuration, the timbre RAM and the inputs are kept. -/
structure FullResetEffect (s t : State) : Prop where
  hw      : t.hw = s.hw
  cfg     : t.cfg = s.cfg
  ram     : t.ram = s.ram
  inputs  : t.inputs = s.inputs
  errors  : t.cfgerr = false ∧ t.errcode = 0 ∧ t.errcmd = 0
  out     : t.out = s.out ++ fullResetItems s.hw s.cfg
  shadow  : t.shadow = shadowAfter [] (fullResetItems s.hw s.cfg)
  pool    : PoolReset t

/-- The rows of 60_exceptions.md R321, in R322's order of priority: a CFG of register `idx` with value `val` raises
Misconfig with cause code `code`. -/
abbrev MisconfigRow (p : Params) (c : Cfg) (idx val code : Nat) : Prop :=
  (code = 1 ∧ 10 ≤ idx) ∨
  (code = 2 ∧ ((idx = 0 ∨ idx = 1 ∨ idx = 7 ∨ idx = 8) ∧ 1 < val ∨ idx = 2 ∧ 15 < val ∨ idx = 9 ∧ 127 < val)) ∨
  (code = 3 ∧ idx = 5 ∧ (val = 0 ∨ 6 < val)) ∨
  (code = 4 ∧ (idx = 5 ∧ 1 ≤ val ∧ val ≤ 6 ∧ 6 * val < c.n4op.toNat ∨
    idx = 6 ∧ 6 * c.nchips.toNat < val ∧ p.capChiptype = true)) ∨
  (code = 5 ∧ idx = 6 ∧ 0 < val ∧ p.capChiptype = false) ∨
  (code = 6 ∧ (idx = 3 ∧ p.nfreq ≤ val ∨ idx = 4 ∧ p.nvol ≤ val))

/-- The last item of a sequence that decides what `SHADOW` holds at `a`: a register write to it, or a backend reset. -/
def lastWrite (a : BitVec 16) (items : List OutItem) : Option OutItem :=
  items.reverse.find? fun x => decide (x.kind = .rst) || (decide (x.kind = .reg) && decide (x.addr = a))

/-! ### Invariants -/

/-- The stored configuration is one that passed the checks of CFG (45_backend_and_system_commands.md R299). -/
abbrev CfgLegal (p : Params) (c : Cfg) : Prop :=
  1 ≤ c.nchips.toNat ∧ c.nchips.toNat ≤ Config.MAX_CHIPS ∧ c.n4op.toNat ≤ 6 * c.nchips.toNat ∧
  (p.capChiptype = false → c.n4op = 0) ∧ c.freqsel.toNat < p.nfreq ∧ c.volsel.toNat < p.nvol

/-- The voice table has `NV_MAX` entries, each with the category and reservation of its slot, and names a timbre record
or none (10_state.md R30, R31, R33). -/
abbrev TableOk (s : State) : Prop :=
  s.voices.length = s.hw.nvMax ∧
  ∀ v, v < s.hw.nvMax →
    (s.voice v).cat = categoryAt s.hw s.cfg v ∧ (s.voice v).reserved = reservedAt s.hw s.cfg v ∧
    (s.voice v).timbre.toNat ≤ 256

/-- `FREE` and the active lists hold no voice twice and no voice in common, and only live unreserved voices
(10_state.md R34 (a), (b)). -/
abbrev ListsOk (s : State) : Prop :=
  s.free.Nodup ∧ (∀ c, (s.activeOf c).Nodup) ∧
  (∀ v, v ∈ s.free → v < s.cfg.nv s.hw ∧ (s.voice v).reserved = false ∧ ∀ c, v ∉ s.activeOf c) ∧
  (∀ v, v < s.cfg.nv s.hw → (s.voice v).reserved = false →
    v ∈ s.free ∨ v ∈ s.activeOf (s.voice v).chanIndex)

/-- A voice of an active list is live, unreserved, on, owned by the list's channel, names a timbre record, and has a
velocity of at least 1 (10_state.md R31, R34 (b), (c), (e)). -/
abbrev ActiveOk (s : State) : Prop :=
  ∀ c v, v ∈ s.activeOf c →
    v < s.cfg.nv s.hw ∧ (s.voice v).reserved = false ∧ (s.voice v).on = true ∧ (s.voice v).owner = c.setWidth 5 ∧
    (s.voice v).timbre ≠ TIMBRE_NONE ∧ (s.voice v).vel ≠ 0

/-- A voice in no active list is off and has no owner (10_state.md R34 (c), (d)). -/
abbrev IdleOk (s : State) : Prop :=
  ∀ v, v < s.hw.nvMax → v ∉ s.activeOf (s.voice v).chanIndex → (s.voice v).on = false ∧ (s.voice v).owner = FREE_OWNER

/-- A channel above `MAXCHAN` has no active voice (41_event_commands.md R152). -/
abbrev MaxchanOk (s : State) : Prop := ∀ c, s.cfg.maxchan < c → s.activeOf c = []

/-- How many voices `FREE` and the sixteen active lists hold together (40_voice_pool.md R139 (d)). -/
def State.pooled (s : State) : Nat :=
  s.free.length + ((List.finRange 16).map fun c => (s.activeOf (BitVec.ofFin c)).length).sum

/-- The invariants of 10_state.md R34, on a legal configuration. -/
abbrev Consistent (s : State) : Prop :=
  CfgLegal s.hw s.cfg ∧ TableOk s ∧ ListsOk s ∧ ActiveOk s ∧ IdleOk s ∧ MaxchanOk s

/-- `keyOffset` and `keyDetune` are BendCalc's of the current bend and range (10_state.md R41). -/
abbrev BendOk (s : State) : Prop := ∀ c, bendCalc s.hw.fine (s.chan c) = s.chan c

/-- Both memories are in canonical form and within their address spaces. -/
abbrev MemoryOk (s : State) : Prop :=
  Memory.wf shadowUnlisted s.shadow = true ∧ Memory.below 65536 s.shadow = true ∧
  Memory.wf ramUnlisted s.ram = true ∧ Memory.below Config.TBYTES s.ram = true

/-- The error registers: all 0 while no error stands; else a cause of 60_exceptions.md R321 and the word of a CFG. -/
abbrev ErrorOk (s : State) : Prop :=
  if s.cfgerr then 1 ≤ s.errcode.toNat ∧ s.errcode.toNat ≤ 6 ∧ Word.op s.errcmd = 1
  else s.errcode = 0 ∧ s.errcmd = 0

end Sys2Proof.Machine
end

