-- ==== Sys2Proof/Certificates/Slice0/Obligations.lean ====
section
/-! DEFINITION. The statements for the provers. Each docstring names the rule of spec/ it formalises. -/

open Sys2Proof Sys2Proof.Machine

/-! ### Encoding -/

/-- Decoding the word of a command gives the command back, every field at every value (30_encoding.md R101 to R108).
That the ignored bits come back too is the model's choice to keep them as fields (log entry 13). -/
def Obligations.DecodeOfEncode : Prop :=
  ∀ i : Instr, decode (encode i) = i

/-- Every 32-bit word is the word of exactly the command it decodes to. That every word decodes is 30_encoding.md R111
and R113; that no bit of it is lost is the model's choice to keep the ignored bits of R110 as fields of `Instr` (log
entry 13), no rule of the spec. -/
def Obligations.EncodeOfDecode : Prop :=
  ∀ w : Word, encode (decode w) = w

/-- The words of the assembler's syntax and of its pseudo-instructions (30_encoding.md R116, R117). -/
def Obligations.AssemblerWords : Prop :=
  (∀ (ch idx : BitVec 4) (addr : BitVec 12) (a b : BitVec 8),
    encode (.nop 0) = 0x00000000 ∧
    (encode (.cfg idx a 0)).toNat = 0x10000000 + idx.toNat * 2 ^ 24 + a.toNat * 2 ^ 16 ∧
    (encode (.tbwr addr b 0)).toNat = 0x20000000 + addr.toNat * 2 ^ 16 + b.toNat * 2 ^ 8 ∧
    (encode (.noteoff ch a b 0)).toNat = 0x80000000 + ch.toNat * 2 ^ 24 + a.toNat * 2 ^ 16 + b.toNat * 2 ^ 8 ∧
    (encode (.noteon ch a b 0)).toNat = 0x90000000 + ch.toNat * 2 ^ 24 + a.toNat * 2 ^ 16 + b.toNat * 2 ^ 8 ∧
    (encode (.ctrl ch a b 0)).toNat = 0xB0000000 + ch.toNat * 2 ^ 24 + a.toNat * 2 ^ 16 + b.toNat * 2 ^ 8 ∧
    (encode (.prog ch a 0)).toNat = 0xC0000000 + ch.toNat * 2 ^ 24 + a.toNat * 2 ^ 16 ∧
    (encode (.bend ch a b 0)).toNat = 0xE0000000 + ch.toNat * 2 ^ 24 + a.toNat * 2 ^ 16 + b.toNat * 2 ^ 8 ∧
    encode (.reset 0) = 0xF0000000) ∧
  (∀ (ch : BitVec 4) (a b : BitVec 8) (x : BitVec 14),
    let ctrl : Nat → Nat → Nat := fun ctl val => 0xB0000000 + ch.toNat * 2 ^ 24 + ctl * 2 ^ 16 + val * 2 ^ 8
    (encode (Asm.vol ch a)).toNat = ctrl 7 a.toNat ∧ (encode (Asm.pan ch a)).toNat = ctrl 10 a.toNat ∧
    (encode (Asm.expr ch a)).toNat = ctrl 11 a.toNat ∧ (encode (Asm.bright ch a)).toNat = ctrl 74 a.toNat ∧
    (encode (Asm.detune ch a)).toNat = ctrl 94 a.toNat ∧ (encode (Asm.alloff ch)).toNat = ctrl 123 0 ∧
    (encode (Asm.rstctl ch)).toNat = ctrl 121 0 ∧
    (Asm.bendrange ch a b).map (fun i => (encode i).toNat) =
      [ctrl 101 0, ctrl 100 0, ctrl 6 a.toNat, ctrl 38 b.toNat] ∧
    (encode (Asm.bend14 ch x)).toNat =
      0xE0000000 + ch.toNat * 2 ^ 24 + x.toNat % 128 * 2 ^ 16 + x.toNat / 128 * 2 ^ 8) ∧
  (∀ (r : BitVec 8) (bytes : List (BitVec 8)), bytes.length = 13 →
    (Asm.timbre r bytes).length = 13 ∧
    ∀ (k : Nat) (x : BitVec 8), bytes[k]? = some x →
      ((Asm.timbre r bytes)[k]?).map (fun i => (encode i).toNat) =
        some (0x20000000 + (13 * r.toNat + k) * 2 ^ 16 + x.toNat * 2 ^ 8))

/-- Words the spec writes out decode to the commands it says they are (rules R156, R163, R182, R290, R294, R296, R298,
R357, and 95_test_vectors.md 3.1). -/
def Obligations.SpecWordsDecode : Prop :=
  decode 0x903C6400 = .noteon 0 60 100 0 ∧ decode 0x803C0000 = .noteoff 0 60 0 0 ∧
  decode 0xC1010000 = .prog 1 1 0 ∧ decode 0x0FFFFFFF = .nop 0xFFFFFFF ∧ decode 0x15070000 = .cfg 5 7 0 ∧
  decode 0x2CFFAA00 = .tbwr 3327 0xAA 0 ∧ decode 0xF0000000 = .reset 0 ∧ decode 0xB3790000 = .ctrl 3 121 0 0 ∧
  decode 0xE0005000 = .bend 0 0 0x50 0 ∧ decode 0x40010200 = .reserved4 0x0010200

/-! ### Steps -/

/-- A step runs the command its next word decodes to, on the state with the word taken; a pulse of `rst` is a pin reset;
with nothing offered the machine is idle; and `withFetchWord` puts its word next (45_backend_and_system_commands.md
R281; the queue `inputs` and the idle step are the model's own, log entry 1). -/
def Obligations.StepRunsDecodedCommand : Prop :=
  (∀ (s : State) (w : Word) (rest : List HostInput) (i : Instr),
    s.inputs = .command w :: rest → decode w = i → step s = exec i { s with inputs := rest }) ∧
  (∀ (s : State) (rest : List HostInput),
    s.inputs = .rstPulse :: rest → step s = .next ({ s with inputs := rest } : State).pinReset) ∧
  (∀ s : State, s.inputs = [] → step s = .next s) ∧
  (∀ (s : State) (i : Instr), step (s.withFetchWord 32 (encode i).toNat) = exec (decode (encode i)) s)

/-- No step of the model stops. Every word decodes (30_encoding.md R111) and no state of FMVA stops accepting commands
(60_exceptions.md R327); but that a command also completes rests on the model's own choices that every output item is
accepted in the step that offers it (log entry 3: a stalled consumer, R282, is no step of the model) and that the
Misconfig trap is a next state (log entry 10). -/
def Obligations.EveryStepCompletes : Prop :=
  ∀ s : State, ∃ t, step s = .next t

/-- Pin reset (70_reset_and_hazards.md R350, 10_state.md R21, R55) sets every configuration register, clears the error
registers and `SHADOW`, resets pool and channels, emits nothing, and leaves the timbre RAM untouched; the build and the
rest of the inputs, the model's own fields, stay. -/
def Obligations.PinResetValues : Prop :=
  ∀ (s : State) (rest : List HostInput), s.inputs = .rstPulse :: rest →
    ∃ t, step s = .next t ∧
      t.cfg = { stereo := false, additive := false, maxchan := 15, freqsel := 0, volsel := 0, nchips := 1, n4op := 0,
                opmode := false, rhythm := false, mastervol := 127 } ∧
      t.cfgerr = false ∧ t.errcode = 0 ∧ t.errcmd = 0 ∧ (∀ a, t.shadowByte a = 0) ∧ PoolReset t ∧
      t.out = s.out ∧ (∀ a, t.ramByte a = s.ramByte a) ∧ t.hw = s.hw ∧ t.inputs = rest

/-! ### System commands -/

/-- NOP and the seven reserved opcodes are consumed and change nothing at all, whatever their ignored bits and `CFGERR`
(30_encoding.md R109, 45_backend_and_system_commands.md R290). -/
def Obligations.NopAndReservedDoNothing : Prop :=
  (∀ (s : State) (z : BitVec 28),
    exec (.nop z) s = .next s ∧ exec (.reserved3 z) s = .next s ∧ exec (.reserved4 z) s = .next s ∧
    exec (.reserved5 z) s = .next s ∧ exec (.reserved6 z) s = .next s ∧ exec (.reserved7 z) s = .next s ∧
    exec (.reservedA z) s = .next s ∧ exec (.reservedD z) s = .next s) ∧
  (∀ (s : State) (w : Word) (rest : List HostInput), w.toNat / 2 ^ 28 ∈ [0x0, 0x3, 0x4, 0x5, 0x6, 0x7, 0xA, 0xD] →
    exec (decode w) s = .next s ∧ (s.inputs = .command w :: rest → step s = .next { s with inputs := rest }))

/-- TBWR writes one byte of timbre RAM, or nothing from address 3328 up; every other byte and every other piece of state
stays (45_backend_and_system_commands.md R296). -/
def Obligations.TbwrWritesOneByte : Prop :=
  ∀ (s : State) (addr : BitVec 12) (data z : BitVec 8), ∃ t,
    exec (.tbwr addr data z) s = .next t ∧ t = { s with ram := t.ram } ∧ (3328 ≤ addr.toNat → t = s) ∧
    ∀ a, t.ramByte a = if a = addr.toNat ∧ a < 3328 then data else s.ramByte a

/-- A CFG that fails a check takes the Misconfig trap: the error registers latch the cause and the command word if no
error stands, and nothing else changes (60_exceptions.md R321, R322, R324). -/
def Obligations.InvalidCfgTakesTrap : Prop :=
  ∀ (s : State) (idx : BitVec 4) (val : BitVec 8) (z : BitVec 16) (code : Nat),
    MisconfigRow s.hw s.cfg idx.toNat val.toNat code →
      exec (.cfg idx val z) s = .next
        (if s.cfgerr then s
         else { s with cfgerr := true, errcode := BitVec.ofNat 3 code, errcmd := encode (.cfg idx val z) })

/-- The check of CFG gives a cause exactly when the cause's row of 60_exceptions.md R321 is met, with the priorities of
R322; so one CFG raises at most one cause, and its code is one of 1 to 6. -/
def Obligations.OneCausePerCfg : Prop :=
  ∀ (p : Params) (c : Cfg) (idx : BitVec 4) (val : BitVec 8),
    (∀ k : Cause, cfgCause p c idx val = some k ↔ MisconfigRow p c idx.toNat val.toNat k.code.toNat) ∧
    (∀ code, MisconfigRow p c idx.toNat val.toNat code → 1 ≤ code ∧ code ≤ 6 ∧
      ∀ code', MisconfigRow p c idx.toNat val.toNat code' → code' = code)

/-- A CFG that passes its checks writes its register, no other, and performs a full reset
(45_backend_and_system_commands.md R292, 70_reset_and_hazards.md R351). -/
def Obligations.ValidCfgWritesRegisterAndResets : Prop :=
  ∀ (s : State) (idx : BitVec 4) (val : BitVec 8) (z : BitVec 16),
    (∀ code, ¬ MisconfigRow s.hw s.cfg idx.toNat val.toNat code) → ∃ t,
      exec (.cfg idx val z) s = .next t ∧
      t.cfg.stereo = (if idx.toNat = 0 then decide (val = 1) else s.cfg.stereo) ∧
      t.cfg.additive = (if idx.toNat = 1 then decide (val = 1) else s.cfg.additive) ∧
      t.cfg.maxchan.toNat = (if idx.toNat = 2 then val.toNat else s.cfg.maxchan.toNat) ∧
      t.cfg.freqsel.toNat = (if idx.toNat = 3 then val.toNat else s.cfg.freqsel.toNat) ∧
      t.cfg.volsel.toNat = (if idx.toNat = 4 then val.toNat else s.cfg.volsel.toNat) ∧
      t.cfg.nchips.toNat = (if idx.toNat = 5 then val.toNat else s.cfg.nchips.toNat) ∧
      t.cfg.n4op.toNat = (if idx.toNat = 6 then val.toNat else s.cfg.n4op.toNat) ∧
      t.cfg.opmode = (if idx.toNat = 7 then decide (val = 1) else s.cfg.opmode) ∧
      t.cfg.rhythm = (if idx.toNat = 8 then decide (val = 1) else s.cfg.rhythm) ∧
      t.cfg.mastervol.toNat = (if idx.toNat = 9 then val.toNat else s.cfg.mastervol.toNat) ∧
      FullResetEffect { s with cfg := t.cfg } t

/-- RESET performs a full reset with the stored configuration (45_backend_and_system_commands.md R298,
70_reset_and_hazards.md R351). -/
def Obligations.ResetPerformsFullReset : Prop :=
  ∀ (s : State) (z : BitVec 28), ∃ t, exec (.reset z) s = .next t ∧ FullResetEffect s t

/-- Bit `j` of a chip's 4-operator mask says whether its pair `j` is one of the first `N4OP` (70_reset_and_hazards.md
R353). -/
def Obligations.FouropMaskBits : Prop :=
  ∀ (c : Cfg) (chip j : Nat), j < 8 →
    (fouropMask c chip).getLsbD j = decide (j < 6 ∧ 6 * chip + j < c.n4op.toNat)

/-! ### Gates of the events -/

/-- While `CFGERR = 1` the five events do nothing, and NOP, CFG, TBWR, RESET and the reserved opcodes run as they do
without the error (60_exceptions.md R326). -/
def Obligations.ErrorBlocksEvents : Prop :=
  ∀ (s : State), s.cfgerr = true →
    (∀ (ch : BitVec 4) (a b z : BitVec 8) (z' : BitVec 16),
      exec (.noteoff ch a b z) s = .next s ∧ exec (.noteon ch a b z) s = .next s ∧
      exec (.ctrl ch a b z) s = .next s ∧ exec (.prog ch a z') s = .next s ∧ exec (.bend ch a b z) s = .next s) ∧
    (∀ z : BitVec 28,
      exec (.nop z) s = .next s ∧ exec (.reserved3 z) s = .next s ∧ exec (.reserved4 z) s = .next s ∧
      exec (.reserved5 z) s = .next s ∧ exec (.reserved6 z) s = .next s ∧ exec (.reserved7 z) s = .next s ∧
      exec (.reservedA z) s = .next s ∧ exec (.reservedD z) s = .next s ∧
      exec (.reset z) s = exec (.reset z) s.clearErrors) ∧
    (∀ (addr : BitVec 12) (data z : BitVec 8), ∃ t,
      exec (.tbwr addr data z) s.clearErrors = .next t ∧ exec (.tbwr addr data z) s = .next { s with ram := t.ram }) ∧
    (∀ (idx : BitVec 4) (val : BitVec 8) (z : BitVec 16),
      (∀ code, ¬ MisconfigRow s.hw s.cfg idx.toNat val.toNat code) →
        exec (.cfg idx val z) s = exec (.cfg idx val z) s.clearErrors)

/-- An event with a data byte above 127 does nothing; of PROG only `A` is checked and `B` is ignored (30_encoding.md
R107). -/
def Obligations.SevenBitCheck : Prop :=
  ∀ (s : State) (ch : BitVec 4) (a b z : BitVec 8) (z' z'' : BitVec 16),
    (127 < a.toNat ∨ 127 < b.toNat →
      exec (.noteoff ch a b z) s = .next s ∧ exec (.noteon ch a b z) s = .next s ∧
      exec (.ctrl ch a b z) s = .next s ∧ exec (.bend ch a b z) s = .next s) ∧
    (127 < a.toNat → exec (.prog ch a z') s = .next s) ∧
    exec (.prog ch a z') s = exec (.prog ch a z'') s

/-! ### NOTEON -/

/-- NOTEON with a free voice binds the head of `FREE` (41_event_commands.md R151, R153, 40_voice_pool.md R131): the
voice gets owner, key, velocity, the channel's record and the pitch looked up for it, and goes to the tail of the
channel's list; every other voice, list, channel and register stays. -/
def Obligations.NoteOnBindsHeadOfFree : Prop :=
  ∀ (s : State) (ch : BitVec 4) (key vel z : BitVec 8) (v : Nat) (rest : List Nat),
    s.cfgerr = false → key.toNat ≤ 127 → 1 ≤ vel.toNat → vel.toNat ≤ 127 → ch ≤ s.cfg.maxchan →
    s.free = v :: rest → v < s.voices.length → ∃ t,
      exec (.noteon ch key vel z) s = .next t ∧ t.free = rest ∧ t.activeOf ch = s.activeOf ch ++ [v] ∧
      (∀ c, c ≠ ch → t.activeOf c = s.activeOf c) ∧
      (t.voice v).owner.toNat = ch.toNat ∧ (t.voice v).key.toNat = key.toNat ∧ (t.voice v).vel.toNat = vel.toNat ∧
      (t.voice v).on = true ∧
      (t.voice v).timbre.toNat = (if ch = 9 then 128 + key.toNat else (s.chan ch).program.toNat) ∧
      (t.voice v).pitch = t.lookupPitch v ∧ (t.voice v).cat = (s.voice v).cat ∧
      (t.voice v).reserved = (s.voice v).reserved ∧ (∀ w, w ≠ v → t.voice w = s.voice w) ∧
      t = { s with voices := t.voices, free := t.free, active := t.active, out := t.out, shadow := t.shadow }

/-- NOTEON with a free voice emits the four phases in their order, the timbre phase only when the voice last held
another record (41_event_commands.md R151, 44_register_mapper.md R260, R261, R263, R266, R269, R270). The bytes the
phases send are those of the record's layout: 13 bytes from `13 × t` on, the modulator's before the carrier's
(20_memory.md R70, R71). -/
def Obligations.NoteOnEmitsPhasesInOrder : Prop :=
  (∀ (s : State) (r : BitVec 9),
    [s.trec r (.char 0), s.trec r (.char 1), s.trec r (.level 0), s.trec r (.level 1), s.trec r (.env1 0),
     s.trec r (.env1 1), s.trec r (.env2 0), s.trec r (.env2 1), s.trec r (.wave 0), s.trec r (.wave 1),
     s.trec r .fbconn, s.trec r .transpose, s.trec r .veloff] =
      (List.range 13).map fun k => s.ramByte (13 * r.toNat + k)) ∧
  ∀ (s : State) (ch : BitVec 4) (key vel z : BitVec 8) (v : Nat) (rest : List Nat),
    s.cfgerr = false → key.toNat ≤ 127 → 1 ≤ vel.toNat → vel.toNat ≤ 127 → ch ≤ s.cfg.maxchan →
    s.free = v :: rest → v < s.voices.length → ∃ t items,
      exec (.noteon ch key vel z) s = .next t ∧ t.out = s.out ++ items ∧ t.shadow = shadowAfter s.shadow items ∧
      items =
        (if (s.voice v).timbre.toNat = (if ch = 9 then 128 + key.toNat else (s.chan ch).program.toNat) then []
         else t.timbrePhase v) ++ t.volumePhase v ++ t.pitchPhase v ++ t.panPhase v

/-- NOTEON with the pool exhausted and channel 9 sounding steals the percussion channel's oldest voice: its key-off goes
out first, and it is bound to the new note; no other voice and no other channel's list changes (40_voice_pool.md R135,
R136, R138). -/
def Obligations.NoteOnStealsOldestPercussion : Prop :=
  ∀ (s : State) (ch : BitVec 4) (key vel z : BitVec 8) (h : Nat) (rest : List Nat),
    Consistent s → s.cfgerr = false → key.toNat ≤ 127 → 1 ≤ vel.toNat → vel.toNat ≤ 127 → ch ≤ s.cfg.maxchan →
    s.free = [] → s.activeOf 9 = h :: rest → ∃ t items,
      exec (.noteon ch key vel z) s = .next t ∧ t.free = [] ∧
      t.activeOf 9 = (if ch = 9 then rest ++ [h] else rest) ∧
      (ch ≠ 9 → t.activeOf ch = s.activeOf ch ++ [h]) ∧
      (∀ c, c ≠ ch → c ≠ 9 → t.activeOf c = s.activeOf c) ∧
      (t.voice h).owner.toNat = ch.toNat ∧ (t.voice h).key.toNat = key.toNat ∧ (t.voice h).vel.toNat = vel.toNat ∧
      (t.voice h).on = true ∧
      (t.voice h).timbre.toNat = (if ch = 9 then 128 + key.toNat else (s.chan ch).program.toNat) ∧
      (t.voice h).pitch = t.lookupPitch h ∧ (t.voice h).cat = (s.voice h).cat ∧
      (t.voice h).reserved = (s.voice h).reserved ∧ (∀ w, w ≠ h → t.voice w = s.voice w) ∧
      t.out = s.out ++ s.keyOffItem h ++ items ∧ t.shadow = shadowAfter s.shadow (s.keyOffItem h ++ items) ∧
      items =
        (if (s.voice h).timbre.toNat = (if ch = 9 then 128 + key.toNat else (s.chan ch).program.toNat) then []
         else t.timbrePhase h) ++ t.volumePhase h ++ t.pitchPhase h ++ t.panPhase h ∧
      t = { s with voices := t.voices, active := t.active, out := t.out, shadow := t.shadow }

/-- NOTEON above `MAXCHAN` is ignored (10_state.md R25), and so is one with the pool exhausted and channel 9 silent: the
note is dropped without a trace (40_voice_pool.md R137). -/
def Obligations.NoteOnIgnoredOrDropped : Prop :=
  ∀ (s : State) (ch : BitVec 4) (key vel z : BitVec 8),
    (s.cfg.maxchan < ch → exec (.noteon ch key vel z) s = .next s) ∧
    (vel ≠ 0 → s.free = [] → s.activeOf 9 = [] → exec (.noteon ch key vel z) s = .next s)

/-- A NOTEON of velocity 0 is a NOTEOFF of the same note, whatever the NOTEOFF's velocity (41_event_commands.md
R162). -/
def Obligations.NoteOnZeroVelocityIsNoteOff : Prop :=
  ∀ (s : State) (ch : BitVec 4) (key vel z z' : BitVec 8), Consistent s → vel.toNat ≤ 127 →
    exec (.noteon ch key 0 z) s = exec (.noteoff ch key vel z') s

/-! ### NOTEOFF -/

/-- NOTEOFF releases the first active voice of the channel with the key (41_event_commands.md R160, 40_voice_pool.md
R134, 44_register_mapper.md R267): off, unowned, off its list and at the tail of `FREE`, with one key-off write that
keeps the last pitch; all else stays. -/
def Obligations.NoteOffReleasesFirstMatch : Prop :=
  ∀ (s : State) (ch : BitVec 4) (key vel z : BitVec 8) (before after : List Nat) (v : Nat),
    Consistent s → s.cfgerr = false → key.toNat ≤ 127 → vel.toNat ≤ 127 → s.activeOf ch = before ++ v :: after →
    (s.voice v).key.toNat = key.toNat → (∀ w, w ∈ before → (s.voice w).key.toNat ≠ key.toNat) → ∃ t,
      exec (.noteoff ch key vel z) s = .next t ∧ t.activeOf ch = before ++ after ∧
      (∀ c, c ≠ ch → t.activeOf c = s.activeOf c) ∧ t.free = s.free ++ [v] ∧
      t.voice v = { s.voice v with on := false, owner := 16 } ∧ (∀ w, w ≠ v → t.voice w = s.voice w) ∧
      t.out = s.out ++ s.keyOffItem v ∧ t.shadow = shadowAfter s.shadow (s.keyOffItem v) ∧
      t = { s with voices := t.voices, free := t.free, active := t.active, out := t.out, shadow := t.shadow }

/-- NOTEOFF of a key that no active voice of the channel has does nothing (41_event_commands.md R160, R161). -/
def Obligations.NoteOffWithoutMatchDoesNothing : Prop :=
  ∀ (s : State) (ch : BitVec 4) (key vel z : BitVec 8),
    (∀ w, w ∈ s.activeOf ch → (s.voice w).key.toNat ≠ key.toNat) → exec (.noteoff ch key vel z) s = .next s

/-! ### CTRL -/

/-- Controllers 7, 11 and 74 set their field of the channel and rewrite both level registers of every active voice of
it, oldest first; all else stays (41_event_commands.md R166, R167, R168). -/
def Obligations.VolumeControllersRewriteLevels : Prop :=
  ∀ (s : State) (ch : BitVec 4) (ctl val z : BitVec 8),
    s.cfgerr = false → val.toNat ≤ 127 → ctl.toNat = 7 ∨ ctl.toNat = 11 ∨ ctl.toNat = 74 → ∃ t,
      exec (.ctrl ch ctl val z) s = .next t ∧
      (t.chan ch).volume.toNat = (if ctl.toNat = 7 then val.toNat else (s.chan ch).volume.toNat) ∧
      (t.chan ch).expression.toNat = (if ctl.toNat = 11 then val.toNat else (s.chan ch).expression.toNat) ∧
      (t.chan ch).brightness.toNat = (if ctl.toNat = 74 then val.toNat else (s.chan ch).brightness.toNat) ∧
      t.chan ch = { s.chan ch with
        volume := (t.chan ch).volume, expression := (t.chan ch).expression, brightness := (t.chan ch).brightness } ∧
      (∀ c, c ≠ ch → t.chan c = s.chan c) ∧
      t.out = s.out ++ (s.activeOf ch).flatMap t.volumePhase ∧
      t.shadow = shadowAfter s.shadow ((s.activeOf ch).flatMap t.volumePhase) ∧
      t = { s with chans := t.chans, out := t.out, shadow := t.shadow }

/-- Controller 10 sets the channel's pan and redoes the pan phase of every active voice of it (41_event_commands.md
R169, 44_register_mapper.md R269). The pan bits of that phase are both outputs without stereo or with full panning;
else left for a pan of 0 to 31, both for 32 to 95, right for 96 to 127 (R268). -/
def Obligations.PanControllerRewritesPan : Prop :=
  (∀ (s : State) (c : BitVec 4),
    s.panBits c =
      if s.cfg.stereo = false ∨ s.hw.capFullpan = true then 0x30
      else if (s.chan c).pan.toNat ≤ 31 then 0x10
      else if (s.chan c).pan.toNat ≤ 95 then 0x30
      else 0x20) ∧
  ∀ (s : State) (ch : BitVec 4) (val z : BitVec 8), s.cfgerr = false → val.toNat ≤ 127 → ∃ t,
    exec (.ctrl ch 10 val z) s = .next t ∧ (t.chan ch).pan.toNat = val.toNat ∧
    t.chan ch = { s.chan ch with pan := (t.chan ch).pan } ∧ (∀ c, c ≠ ch → t.chan c = s.chan c) ∧
    t.out = s.out ++ (s.activeOf ch).flatMap t.panPhase ∧
    t.shadow = shadowAfter s.shadow ((s.activeOf ch).flatMap t.panPhase) ∧
    t = { s with chans := t.chans, out := t.out, shadow := t.shadow }

/-- Controller 94 sets the channel's detune to `val − 64` and rewrites the pitch of every active voice of it with the
key-on bit 1 (41_event_commands.md R170, 44_register_mapper.md R266). -/
def Obligations.DetuneControllerRewritesPitch : Prop :=
  ∀ (s : State) (ch : BitVec 4) (val z : BitVec 8),
    s.cfgerr = false → val.toNat ≤ 127 → (∀ w, w ∈ s.activeOf ch → w < s.voices.length) → ∃ t,
      exec (.ctrl ch 94 val z) s = .next t ∧ (t.chan ch).detune.toInt = (val.toNat : Int) - 64 ∧
      t.chan ch = { s.chan ch with detune := (t.chan ch).detune } ∧ (∀ c, c ≠ ch → t.chan c = s.chan c) ∧
      (∀ w, w < s.voices.length → t.voice w =
        if w ∈ s.activeOf ch then { s.voice w with pitch := t.lookupPitch w } else s.voice w) ∧
      t.out = s.out ++ (s.activeOf ch).flatMap t.pitchPhase ∧
      t.shadow = shadowAfter s.shadow ((s.activeOf ch).flatMap t.pitchPhase) ∧
      t = { s with chans := t.chans, voices := t.voices, out := t.out, shadow := t.shadow }

/-- Controllers 101 and 100 stage the two bytes of the RPN and do nothing else (41_event_commands.md R174, R175). -/
def Obligations.RpnControllersStage : Prop :=
  ∀ (s : State) (ch : BitVec 4) (val z : BitVec 8), s.cfgerr = false → val.toNat ≤ 127 →
    (∃ t, exec (.ctrl ch 101 val z) s = .next t ∧ (t.chan ch).rpnMsb.toNat = val.toNat ∧
      t.chan ch = { s.chan ch with rpnMsb := (t.chan ch).rpnMsb } ∧ (∀ c, c ≠ ch → t.chan c = s.chan c) ∧
      t = { s with chans := t.chans }) ∧
    (∃ t, exec (.ctrl ch 100 val z) s = .next t ∧ (t.chan ch).rpnLsb.toNat = val.toNat ∧
      t.chan ch = { s.chan ch with rpnLsb := (t.chan ch).rpnLsb } ∧ (∀ c, c ≠ ch → t.chan c = s.chan c) ∧
      t = { s with chans := t.chans })

/-- Data Entry under the staged RPN (0, 0) sets the bend range's semitones (6) or cents (38), recomputes the bend offset
from the stored bend, and rewrites the pitch of every active voice of the channel (41_event_commands.md R176, R177,
R185). -/
def Obligations.DataEntrySetsBendRange : Prop :=
  ∀ (s : State) (ch : BitVec 4) (ctl val z : BitVec 8),
    s.cfgerr = false → val.toNat ≤ 127 → ctl.toNat = 6 ∨ ctl.toNat = 38 →
    (s.chan ch).rpnMsb = 0 → (s.chan ch).rpnLsb = 0 → (∀ w, w ∈ s.activeOf ch → w < s.voices.length) → ∃ t,
      exec (.ctrl ch ctl val z) s = .next t ∧
      (t.chan ch).bendSemis.toNat = (if ctl.toNat = 6 then val.toNat else (s.chan ch).bendSemis.toNat) ∧
      (t.chan ch).bendCents.toNat = (if ctl.toNat = 38 then val.toNat else (s.chan ch).bendCents.toNat) ∧
      t.chan ch = bendCalc s.hw.fine
        { s.chan ch with bendSemis := (t.chan ch).bendSemis, bendCents := (t.chan ch).bendCents } ∧
      (∀ c, c ≠ ch → t.chan c = s.chan c) ∧
      (∀ w, w < s.voices.length → t.voice w =
        if w ∈ s.activeOf ch then { s.voice w with pitch := t.lookupPitch w } else s.voice w) ∧
      t.out = s.out ++ (s.activeOf ch).flatMap t.pitchPhase ∧
      t.shadow = shadowAfter s.shadow ((s.activeOf ch).flatMap t.pitchPhase) ∧
      t = { s with chans := t.chans, voices := t.voices, out := t.out, shadow := t.shadow }

/-- Data Entry under any other staged RPN does nothing (41_event_commands.md R176, R177), and so does any controller
number without a rule (R180). -/
def Obligations.IgnoredControllers : Prop :=
  ∀ (s : State) (ch : BitVec 4) (ctl val z : BitVec 8),
    ((s.chan ch).rpnMsb ≠ 0 ∨ (s.chan ch).rpnLsb ≠ 0 →
      exec (.ctrl ch 6 val z) s = .next s ∧ exec (.ctrl ch 38 val z) s = .next s) ∧
    (ctl.toNat ∉ [6, 7, 10, 11, 38, 74, 94, 100, 101, 121, 123] → exec (.ctrl ch ctl val z) s = .next s)

/-- Controller 123 releases every active voice of its channel, oldest first, in which order they enter `FREE`; no other
channel is affected (41_event_commands.md R171, 40_voice_pool.md R134). -/
def Obligations.AllNotesOffReleasesChannel : Prop :=
  ∀ (s : State) (ch : BitVec 4) (val z : BitVec 8), Consistent s → s.cfgerr = false → val.toNat ≤ 127 → ∃ t,
    exec (.ctrl ch 123 val z) s = .next t ∧ t.activeOf ch = [] ∧ (∀ c, c ≠ ch → t.activeOf c = s.activeOf c) ∧
    t.free = s.free ++ s.activeOf ch ∧
    (∀ w, t.voice w = if w ∈ s.activeOf ch then { s.voice w with on := false, owner := 16 } else s.voice w) ∧
    t.out = s.out ++ (s.activeOf ch).flatMap s.keyOffItem ∧
    t.shadow = shadowAfter s.shadow ((s.activeOf ch).flatMap s.keyOffItem) ∧
    t = { s with voices := t.voices, free := t.free, active := t.active, out := t.out, shadow := t.shadow }

/-- Controller 121 on any channel is a soft reset: a key-off for every voice that is on, in ascending order, then the
pool and all sixteen channels are reset; configuration, error registers and timbre RAM stay, and `SHADOW` but for the
key-offs (41_event_commands.md R172, 70_reset_and_hazards.md R356). -/
def Obligations.ResetAllControllersSoftResets : Prop :=
  ∀ (s : State) (ch : BitVec 4) (val z : BitVec 8), s.cfgerr = false → val.toNat ≤ 127 → ∃ t items,
    exec (.ctrl ch 121 val z) s = .next t ∧ PoolReset t ∧
    items = ((List.range (s.cfg.nchips.toNat * s.hw.spc)).filter fun v => (s.voice v).on).flatMap s.keyOffItem ∧
    t.out = s.out ++ items ∧ t.shadow = shadowAfter s.shadow items ∧
    t = { s with voices := t.voices, free := t.free, active := t.active, chans := t.chans, out := t.out,
                 shadow := t.shadow }

/-- Reset All Controllers is idempotent: the second emits nothing and leaves the very state of the first
(41_event_commands.md R173). -/
def Obligations.ResetAllControllersIdempotent : Prop :=
  ∀ (s : State) (ch ch' : BitVec 4) (val val' z z' : BitVec 8), s.cfgerr = false → val.toNat ≤ 127 → ∃ t,
    exec (.ctrl ch 121 val z) s = .next t ∧ exec (.ctrl ch' 121 val' z') t = .next t

/-! ### PROG and BEND -/

/-- PROG stores the channel's instrument number and changes nothing else: no output, and sounding voices keep their
record (41_event_commands.md R182). -/
def Obligations.ProgStoresProgram : Prop :=
  ∀ (s : State) (ch : BitVec 4) (prog : BitVec 8) (z : BitVec 16), s.cfgerr = false → prog.toNat ≤ 127 → ∃ t,
    exec (.prog ch prog z) s = .next t ∧ (t.chan ch).program.toNat = prog.toNat ∧
    t.chan ch = { s.chan ch with program := (t.chan ch).program } ∧ (∀ c, c ≠ ch → t.chan c = s.chan c) ∧
    t = { s with chans := t.chans }

/-- BEND stores the 14-bit bend, recomputes the bend offset, and rewrites the pitch of every active voice of the channel
(41_event_commands.md R183, R185, 44_register_mapper.md R266). -/
def Obligations.BendRewritesPitch : Prop :=
  ∀ (s : State) (ch : BitVec 4) (lsb msb z : BitVec 8),
    s.cfgerr = false → lsb.toNat ≤ 127 → msb.toNat ≤ 127 → (∀ w, w ∈ s.activeOf ch → w < s.voices.length) → ∃ t,
      exec (.bend ch lsb msb z) s = .next t ∧ (t.chan ch).bend.toNat = msb.toNat * 128 + lsb.toNat ∧
      t.chan ch = bendCalc s.hw.fine { s.chan ch with bend := (t.chan ch).bend } ∧
      (∀ c, c ≠ ch → t.chan c = s.chan c) ∧
      (∀ w, w < s.voices.length → t.voice w =
        if w ∈ s.activeOf ch then { s.voice w with pitch := t.lookupPitch w } else s.voice w) ∧
      t.out = s.out ++ (s.activeOf ch).flatMap t.pitchPhase ∧
      t.shadow = shadowAfter s.shadow ((s.activeOf ch).flatMap t.pitchPhase) ∧
      t = { s with chans := t.chans, voices := t.voices, out := t.out, shadow := t.shadow }

/-- BendCalc's arithmetic, for every bend, range and `FINE`: `keyOffset × FINE + keyDetune` is the floor of
`b × R × FINE / 819200`, the offset lies in −129..128 and the detune index in 0..FINE−1, and no other field changes
(41_event_commands.md R185). -/
def Obligations.BendCalcArithmetic : Prop :=
  ∀ (fine : Nat) (k : Chan), 1 ≤ fine →
    let r := bendCalc fine k
    let b : Int := (k.bend.toNat : Int) - 8192
    let range : Int := (k.bendSemis.toNat : Int) * 100 + k.bendCents.toNat
    let t : Int := r.keyOffset.toInt * fine + r.keyDetune
    819200 * t ≤ b * range * fine ∧ b * range * fine < 819200 * (t + 1) ∧
    -129 ≤ r.keyOffset.toInt ∧ r.keyOffset.toInt ≤ 128 ∧ r.keyDetune < fine ∧
    r = { k with keyOffset := r.keyOffset, keyDetune := r.keyDetune }

/-! ### Lookups and maps -/

/-- NotePos gives a note in 0..127 and a fraction below `FINE` whose position is the sum of key, transpose, bend and
detune clamped to `0 .. 128 × FINE − 1` (42_frequency_model.md R204, R205), and the pitch looked up for the voice is that
of the model with number `FREQSEL` at this note and fraction (R203, 44_register_mapper.md R266). -/
def Obligations.NotePosClamps : Prop :=
  ∀ (s : State) (v : Nat), 1 ≤ s.hw.fine →
    let x := s.voice v
    let k := s.chan x.chanIndex
    let p : Int := ((x.key.toNat : Int) + (s.trec x.timbre .transpose).toInt + k.keyOffset.toInt) * s.hw.fine +
      k.keyDetune + k.detune.toInt
    (s.notePos v).1 ≤ 127 ∧ (s.notePos v).2 < s.hw.fine ∧
    ((s.notePos v).1 * s.hw.fine + (s.notePos v).2 : Int) = max 0 (min p (128 * s.hw.fine - 1)) ∧
    ∀ m : FreqModel, s.hw.freqModels[s.cfg.freqsel.toNat]? = some m →
      s.lookupPitch v = FreqModel.lookup m (s.notePos v).1 (s.notePos v).2

/-- The ten inputs of the volume lookup (43_volume_model.md R222): the velocity is the voice's plus the record's offset,
clamped to 0..127 (R223), and each other input comes from where R222's table says. The attenuations are those of the
model with number `VOLSEL` (R222, 44_register_mapper.md R263). -/
def Obligations.VelocityOffsetClamps : Prop :=
  ∀ (s : State) (v : Nat),
    let x := s.voice v
    let k := s.chan x.chanIndex
    let inp := s.volumeInput v
    (inp.velp.toNat : Int) = max 0 (min (x.vel.toNat + (s.trec x.timbre .veloff).toInt) 127) ∧
    inp.vol = k.volume ∧ inp.expr = k.expression ∧ inp.master = s.cfg.mastervol ∧ inp.bright = k.brightness ∧
    inp.tlMod.toNat = (s.trec x.timbre (.level 0)).toNat % 64 ∧
    inp.tlCar.toNat = (s.trec x.timbre (.level 1)).toNat % 64 ∧
    inp.conn = decide ((s.trec x.timbre .fbconn).toNat % 2 = 1) ∧
    inp.additive = s.cfg.additive ∧ inp.cat = x.cat ∧
    ∀ m : VolModel, s.hw.volModels[s.cfg.volsel.toNat]? = some m → s.attenuation v = VolModel.lookup m inp

/-- The two volume models of `REF`: the gain and the scaling in the order of 43_volume_model.md R225, the modulator
scaled by the gain in `REF-LIN` where the connection or the additive mode makes it audible and by the brightness
otherwise, and by the brightness always in `REF-CAR` (R226); and both keep each attenuation between the timbre's own
level and 63 (R228). -/
def Obligations.RefVolumeBounds : Prop :=
  ∀ (chiptype fullpan : Bool) (x : VolumeInput),
    let p := refParams chiptype fullpan
    let gain := x.velp.toNat * x.vol.toNat / 127 * x.expr.toNat / 127 * x.master.toNat / 127
    let scaled : Nat → Nat → Nat := fun tl y => 63 - (63 - tl) * y / 127
    p.nvol = 2 ∧
    (volFn p 0 x).car6.toNat = scaled x.tlCar.toNat gain ∧
    (volFn p 0 x).mod6.toNat =
      scaled x.tlMod.toNat (if x.conn = true ∨ x.additive = true then gain else x.bright.toNat) ∧
    (volFn p 1 x).car6.toNat = scaled x.tlCar.toNat gain ∧
    (volFn p 1 x).mod6.toNat = scaled x.tlMod.toNat x.bright.toNat ∧
    ∀ m, m < 2 →
      x.tlMod.toNat ≤ (volFn p m x).mod6.toNat ∧ (volFn p m x).mod6.toNat ≤ 63 ∧
      x.tlCar.toNat ≤ (volFn p m x).car6.toNat ∧ (volFn p m x).car6.toNat ≤ 63

/-- On a chip with one register set no map gives an offset of `0x100` or more (44_register_mapper.md R251). -/
def Obligations.SinglePortMaps : Prop :=
  ∀ (s : State) (v : Nat) (op : Fin 4) (o : BitVec 9), s.hw.capChiptype = false →
    s.mapOp v op = some o ∨ s.mapPitch v = some o ∨ s.mapPan v = some o → o.toNat < 0x100

/-- The categories and reservations of `REF` on a legal configuration (44_register_mapper.md R242, R244, R245): pairs of
channels `(0, 3)`, `(1, 4)`, `(2, 5)` of each register set, the slots the rhythm mode takes, all else `Regular`; and a
slot is reserved that is not live, not `Regular`, or in a second register set the chip lacks. -/
def Obligations.RefCategories : Prop :=
  ∀ (chiptype fullpan : Bool) (c : Cfg) (chip ls : Nat),
    c.nchips.toNat ≤ 6 → c.n4op.toNat ≤ 6 * c.nchips.toNat → chip < 6 → ls < 23 →
    let p := refParams chiptype fullpan
    let paired : Nat → Prop := fun j => 6 * chip + j < c.n4op.toNat
    categoryAt p c (23 * chip + ls) =
      (if c.nchips.toNat ≤ chip then .regular
       else if ls ≤ 2 ∧ paired ls ∨ 9 ≤ ls ∧ ls ≤ 11 ∧ paired (ls - 6) then .fourOpFirst
       else if 3 ≤ ls ∧ ls ≤ 5 ∧ paired (ls - 3) ∨ 12 ≤ ls ∧ ls ≤ 14 ∧ paired (ls - 9) then .fourOpSecond
       else if 6 ≤ ls ∧ ls ≤ 8 ∧ c.rhythm = true ∨ 18 ≤ ls ∧ c.rhythm = false then .rhythmSlave
       else if ls = 18 then .rhythmBD else if ls = 19 then .rhythmSD else if ls = 20 then .rhythmTT
       else if ls = 21 then .rhythmCY else if ls = 22 then .rhythmHH else .regular) ∧
    (reservedAt p c (23 * chip + ls) = true ↔
      c.nchips.toNat ≤ chip ∨ categoryAt p c (23 * chip + ls) ≠ .regular ∨
        chiptype = false ∧ 9 ≤ ls ∧ ls ≤ 17)

/-- The `REF` pool's capacity on a legal configuration (40_voice_pool.md R132): `NCHIPS × 18 − 2 × N4OP`, less
`3 × NCHIPS` in rhythm mode, with two register sets; `NCHIPS × 9`, less the same, with one. -/
def Obligations.RefPoolCapacity : Prop :=
  ∀ (fullpan : Bool) (c : Cfg), c.nchips.toNat ≤ 6 → c.n4op.toNat ≤ 6 * c.nchips.toNat →
    (freshFree (refParams true fullpan) c).length + 2 * c.n4op.toNat + (if c.rhythm then 3 * c.nchips.toNat else 0) =
      18 * c.nchips.toNat ∧
    (c.n4op = 0 →
      (freshFree (refParams false fullpan) c).length + (if c.rhythm then 3 * c.nchips.toNat else 0) =
        9 * c.nchips.toNat)

/-- The two `REF` frequency models at every note and fraction (42_frequency_model.md R206, R208): the block is one less
than the octave, kept in 0..7; the F-number is the base table's entry, halved in octave 0, doubled in octave 9 and
doubled twice in octave 10 but never above 1023; model 1 ignores the fraction. The base table's entry for semitone `s`
and fraction `f` is `343 × 2^((32 s + f) / 384)` rounded half up (R207), said in whole numbers: twice the entry, less 1
and plus 1, to the power 384 bounds `686^384 × 2^(32 s + f)`. -/
def Obligations.RefFrequencyModels : Prop :=
  ∀ (chiptype fullpan : Bool) (n f : Nat), n ≤ 127 → f < 32 →
    let p := refParams chiptype fullpan
    let base := (baseTable.getD f []).getD (n % 12) 0
    p.nfreq = 2 ∧ 343 ≤ base ∧ base ≤ 685 ∧
    ((2 * base - 1) ^ 128) ^ 3 ≤ (686 ^ 128) ^ 3 * (2 ^ 32) ^ (n % 12) * 2 ^ f ∧
    (686 ^ 128) ^ 3 * (2 ^ 32) ^ (n % 12) * 2 ^ f < ((2 * base + 1) ^ 128) ^ 3 ∧
    ((freqRom p 0 n f).extractLsb' 10 3).toNat = min (n / 12 - 1) 7 ∧
    ((freqRom p 0 n f).extractLsb' 0 10).toNat =
      (if n / 12 = 0 then base / 2 else if n / 12 ≤ 8 then base
       else if n / 12 = 9 then min 1023 (2 * base) else min 1023 (4 * base)) ∧
    freqRom p 1 n f = freqRom p 0 n 0

/-! ### Output and shadow -/

/-- Every command only appends to the output, and `SHADOW` follows exactly the items it appends (20_memory.md R80, R84,
10_state.md R45). -/
def Obligations.ShadowFollowsOutput : Prop :=
  ∀ (i : Instr) (s t : State), exec i s = .next t →
    ∃ items, t.out = s.out ++ items ∧ t.shadow = shadowAfter s.shadow items

/-- `SHADOW[addr]` is the data of the last register write to `addr` since the last backend reset, 0 if there was none
since that reset, and what it was where neither occurs (10_state.md R45). -/
def Obligations.ShadowHoldsLastWrite : Prop :=
  ∀ (s : State) (items : List OutItem) (a : BitVec 16), MemoryOk s →
    ({ s with shadow := shadowAfter s.shadow items } : State).shadowByte a =
      match lastWrite a items with
      | some x => if x.kind = .reg then x.data else 0
      | none => s.shadowByte a

/-- Without full panning no command emits a `PAN` item (44_register_mapper.md R269). -/
def Obligations.PanItemsNeedFullPan : Prop :=
  ∀ (i : Instr) (s t : State), s.hw.capFullpan = false → exec i s = .next t →
    ∃ items, t.out = s.out ++ items ∧ ∀ x, x ∈ items → x.kind ≠ .pan

/-- Every register and pan item addresses a chip that is live after the command (20_memory.md R78). -/
def Obligations.ItemsAddressLiveChips : Prop :=
  ∀ (i : Instr) (s t : State), s.hw.wf = true → Consistent s → exec i s = .next t →
    ∃ items, t.out = s.out ++ items ∧
      ∀ x, x ∈ items → x.kind ≠ .rst → x.addr.toNat / 512 < t.cfg.nchips.toNat

/-! ### Invariants and whole-machine rules -/

/-- Every step keeps the invariants of 10_state.md R34 and a legal configuration
(45_backend_and_system_commands.md R299). -/
def Obligations.StepKeepsConsistent : Prop :=
  ∀ s t : State, s.hw.wf = true → Consistent s → step s = .next t → Consistent t

/-- Every step keeps `keyOffset` and `keyDetune` at BendCalc's values (10_state.md R41). -/
def Obligations.StepKeepsBendOffsets : Prop :=
  ∀ s t : State, BendOk s → step s = .next t → BendOk t

/-- Every step keeps both memories in canonical form and within their address spaces (20_memory.md R70, R78). -/
def Obligations.StepKeepsMemoryForm : Prop :=
  ∀ s t : State, MemoryOk s → step s = .next t → MemoryOk t

/-- Every step keeps the error registers lawful: 0 without an error, else a cause of 1 to 6 and the word of a CFG
(10_state.md R46, 60_exceptions.md R321). -/
def Obligations.StepKeepsErrorRegisters : Prop :=
  ∀ s t : State, ErrorOk s → step s = .next t → ErrorOk t

/-- The state after pin reset of every well-formed build, and the model's `State.reset`, have all the invariants
(10_state.md R55). -/
def Obligations.ResetHasInvariants : Prop :=
  (∀ p : Params, p.wf = true →
    Consistent (State.resetOf p) ∧ BendOk (State.resetOf p) ∧ MemoryOk (State.resetOf p) ∧
    ErrorOk (State.resetOf p)) ∧
  (State.reset.hw.wf = true ∧ State.reset = State.resetOf State.reset.hw)

/-- The number of voices in `FREE` and in all active lists is the pool's capacity, and a step that leaves the
configuration as it is leaves that number as it is (40_voice_pool.md R139 (d)). -/
def Obligations.PoolIsConserved : Prop :=
  (∀ s : State, Consistent s →
    s.pooled = ((List.range (s.cfg.nchips.toNat * s.hw.spc)).filter fun v => !(s.voice v).reserved).length) ∧
  (∀ s t : State, s.hw.wf = true → Consistent s → step s = .next t → t.cfg = s.cfg → t.pooled = s.pooled)

/-- No command writes a reserved voice, but for the resets, which set the whole table (44_register_mapper.md R273). -/
def Obligations.EventsLeaveReservedVoices : Prop :=
  ∀ (i : Instr) (s t : State) (v : Nat), Consistent s → exec i s = .next t → (s.voice v).reserved = true →
    v < s.hw.nvMax → t.cfg = s.cfg → t.voice v = s.voice v ∨ PoolReset t

/-- The build never changes; only CFG writes a configuration register (10_state.md R21); only TBWR writes the timbre RAM
(20_memory.md R74); and no command touches the inputs. -/
def Obligations.WhoWritesWhat : Prop :=
  ∀ (i : Instr) (s t : State), exec i s = .next t →
    t.hw = s.hw ∧ t.inputs = s.inputs ∧
    ((∀ idx val z, i ≠ .cfg idx val z) → t.cfg = s.cfg) ∧
    ((∀ addr data z, i ≠ .tbwr addr data z) → t.ram = s.ram)

/-- Only a CFG sets `CFGERR`; only a RESET or a valid CFG clears it; and while it stays set `ERRCODE` and `ERRCMD` keep
the first error (60_exceptions.md R324, R325, R327). -/
def Obligations.ErrorLatchHistory : Prop :=
  ∀ (i : Instr) (s t : State), exec i s = .next t →
    (s.cfgerr = false → t.cfgerr = true → ∃ idx val z, i = .cfg idx val z ∧ t.errcmd = encode i) ∧
    (s.cfgerr = true → t.cfgerr = false → (∃ z, i = .reset z) ∨
      ∃ idx val z, i = .cfg idx val z ∧ ∀ code, ¬ MisconfigRow s.hw s.cfg idx.toNat val.toNat code) ∧
    (s.cfgerr = true → t.cfgerr = true → t = { s with ram := t.ram })

/-- An event on one channel changes no other channel's entry of the channel table, unless it is Reset All Controllers
(10_state.md R42). -/
def Obligations.EventsKeepOtherChannels : Prop :=
  ∀ (s : State) (ch c : BitVec 4) (a b z : BitVec 8) (z' : BitVec 16) (t : State), c ≠ ch →
    (exec (.noteoff ch a b z) s = .next t → t.chans = s.chans) ∧
    (exec (.noteon ch a b z) s = .next t → t.chans = s.chans) ∧
    (a.toNat ≠ 121 → exec (.ctrl ch a b z) s = .next t → t.chan c = s.chan c) ∧
    (exec (.prog ch a z') s = .next t → t.chan c = s.chan c) ∧
    (exec (.bend ch a b z) s = .next t → t.chan c = s.chan c)

/-- Under `REF` the operating mode changes nothing but itself: a command other than CFG takes two states alike but for
`OPMODE` to two states alike but for `OPMODE`, output included (44_register_mapper.md R248, R274). -/
def Obligations.OpmodeIsUnobservable : Prop :=
  ∀ (i : Instr) (s t : State) (chiptype fullpan b : Bool),
    s.hw = refParams chiptype fullpan → Consistent s → (∀ idx val z, i ≠ .cfg idx val z) → exec i s = .next t →
    exec i { s with cfg := { s.cfg with opmode := b } } = .next { t with cfg := { t.cfg with opmode := b } }

/-- No event touches another channel's active list, but for the one steal from channel 9 by NOTEON and for Reset All
Controllers (40_voice_pool.md R138). -/
def Obligations.EventsKeepOtherActiveLists : Prop :=
  ∀ (s : State) (ch c : BitVec 4) (a b z : BitVec 8) (z' : BitVec 16) (t : State), Consistent s → c ≠ ch →
    (exec (.noteoff ch a b z) s = .next t → t.activeOf c = s.activeOf c) ∧
    (c ≠ 9 → exec (.noteon ch a b z) s = .next t → t.activeOf c = s.activeOf c) ∧
    (a.toNat ≠ 121 → exec (.ctrl ch a b z) s = .next t → t.activeOf c = s.activeOf c) ∧
    (exec (.prog ch a z') s = .next t → t.activeOf c = s.activeOf c) ∧
    (exec (.bend ch a b z) s = .next t → t.activeOf c = s.activeOf c)

/-! ### Addresses and items -/

/-- The register addresses of `REF`: the operator and channel maps and the bank bases (44_register_mapper.md R247 to
R250, R252), the addresses of the first timbre write and of the key-on write of ten slots (R271), and that two voices a
command can reach never write the same register (R274 (e)). -/
def Obligations.RefRegisterAddresses : Prop :=
  (∀ chiptype fullpan : Bool,
    let p := refParams chiptype fullpan
    p.spc = 23 ∧
    p.opmapStd =
      [⟨some 0x000, some 0x003⟩, ⟨some 0x001, some 0x004⟩, ⟨some 0x002, some 0x005⟩, ⟨some 0x008, some 0x00B⟩,
       ⟨some 0x009, some 0x00C⟩, ⟨some 0x00A, some 0x00D⟩, ⟨some 0x010, some 0x013⟩, ⟨some 0x011, some 0x014⟩,
       ⟨some 0x012, some 0x015⟩, ⟨some 0x100, some 0x103⟩, ⟨some 0x101, some 0x104⟩, ⟨some 0x102, some 0x105⟩,
       ⟨some 0x108, some 0x10B⟩, ⟨some 0x109, some 0x10C⟩, ⟨some 0x10A, some 0x10D⟩, ⟨some 0x110, some 0x113⟩,
       ⟨some 0x111, some 0x114⟩, ⟨some 0x112, some 0x115⟩, ⟨some 0x010, some 0x013⟩, ⟨some 0x014, none⟩,
       ⟨some 0x012, none⟩, ⟨some 0x015, none⟩, ⟨some 0x011, none⟩] ∧
    p.opmapInv =
      p.opmapStd.take 19 ++ [⟨none, some 0x014⟩, ⟨none, some 0x012⟩, ⟨none, some 0x015⟩, ⟨none, some 0x011⟩] ∧
    p.chmapPitch =
      [some 0, some 1, some 2, some 3, some 4, some 5, some 6, some 7, some 8, some 0x100, some 0x101, some 0x102,
       some 0x103, some 0x104, some 0x105, some 0x106, some 0x107, some 0x108, some 6, some 7, some 8, some 8,
       some 7] ∧
    p.chmapPan = p.chmapPitch.take 18 ++ [none, none, none, none, none] ∧
    p.banks = { char := 0x20, level := 0x40, env1 := 0x60, env2 := 0x80, wave := 0xE0, freqLo := 0xA0,
                freqHi := 0xB0, fbconn := 0xC0 }) ∧
  (∀ (s : State) (fullpan : Bool) (v item1 item13 : Nat), s.hw = refParams true fullpan →
    (v, item1, item13) ∈
      [(0, 0x0020, 0x00B0), (3, 0x0028, 0x00B3), (8, 0x0032, 0x00B8), (9, 0x0120, 0x01B0), (15, 0x0130, 0x01B6),
       (17, 0x0132, 0x01B8), (23, 0x0220, 0x02B0), (40, 0x0332, 0x03B8), (115, 0x0A20, 0x0AB0),
       (132, 0x0B32, 0x0BB8)] →
    (s.timbrePhase v).head?.map (fun x => x.addr.toNat) = some item1 ∧
    (s.pitchPhase v).getLast?.map (fun x => x.addr.toNat) = some item13) ∧
  (∀ (s : State) (chiptype fullpan : Bool) (v w : Nat) (x y : OutItem),
    s.hw = refParams chiptype fullpan → Consistent s → v ≠ w →
    v < s.cfg.nchips.toNat * 23 → w < s.cfg.nchips.toNat * 23 →
    (s.voice v).reserved = false → (s.voice w).reserved = false →
    x ∈ s.voiceItems v → y ∈ s.voiceItems w → x.addr ≠ y.addr)

/-- An item's 26 bits are `kind`, `addr`, `data` from the top, with kind 0 for `REG`, 1 for `PAN`, 2 for `RST` and never
3; a command emits an `RST` item with address and data 0, and a `PAN` item only with a pan of 0 to 127 and the address
of some voice's feedback/connection register (30_encoding.md R114, 44_register_mapper.md R269). -/
def Obligations.OutputItemForms : Prop :=
  (∀ x : OutItem,
    x.bits.toNat = x.addr.toNat * 2 ^ 8 + x.data.toNat +
      match x.kind with
      | .reg => 0
      | .pan => 1 * 2 ^ 24
      | .rst => 2 * 2 ^ 24) ∧
  (∀ (i : Instr) (s t : State), exec i s = .next t →
    ∃ items, t.out = s.out ++ items ∧
      ∀ x, x ∈ items →
        (x.kind = .rst → x.addr = 0 ∧ x.data = 0) ∧
        (x.kind = .pan → x.data.toNat ≤ 127 ∧ ∃ (v : Nat) (o : BitVec 9), s.mapPan v = some o ∧
          x.addr = outAddr (v / s.hw.spc) (s.hw.banks.fbconn.toNat + o.toNat)))
end

