-- ==== Sys2Proof/Laws/State.lean ====
section
/-! SUPPORT. One lemma for each field of State under each update of Machine/Ops.lean, true by rfl, so that no proof
unfolds a record update. -/

namespace Sys2Proof.Machine

open Sys2Proof

variable (s : State)

/-! ### `State.setVoice` -/

@[simp] theorem State.setVoice_hw (v : Nat) (x : Voice) : (s.setVoice v x).hw = s.hw := rfl
@[simp] theorem State.setVoice_cfg (v : Nat) (x : Voice) : (s.setVoice v x).cfg = s.cfg := rfl
@[simp] theorem State.setVoice_voices (v : Nat) (x : Voice) : (s.setVoice v x).voices = s.voices.set v x := rfl
@[simp] theorem State.setVoice_free (v : Nat) (x : Voice) : (s.setVoice v x).free = s.free := rfl
@[simp] theorem State.setVoice_active (v : Nat) (x : Voice) : (s.setVoice v x).active = s.active := rfl
@[simp] theorem State.setVoice_chans (v : Nat) (x : Voice) : (s.setVoice v x).chans = s.chans := rfl
@[simp] theorem State.setVoice_shadow (v : Nat) (x : Voice) : (s.setVoice v x).shadow = s.shadow := rfl
@[simp] theorem State.setVoice_cfgerr (v : Nat) (x : Voice) : (s.setVoice v x).cfgerr = s.cfgerr := rfl
@[simp] theorem State.setVoice_errcode (v : Nat) (x : Voice) : (s.setVoice v x).errcode = s.errcode := rfl
@[simp] theorem State.setVoice_errcmd (v : Nat) (x : Voice) : (s.setVoice v x).errcmd = s.errcmd := rfl
@[simp] theorem State.setVoice_ram (v : Nat) (x : Voice) : (s.setVoice v x).ram = s.ram := rfl
@[simp] theorem State.setVoice_out (v : Nat) (x : Voice) : (s.setVoice v x).out = s.out := rfl
@[simp] theorem State.setVoice_inputs (v : Nat) (x : Voice) : (s.setVoice v x).inputs = s.inputs := rfl
@[simp] theorem State.setVoice_chan (v : Nat) (x : Voice) (e : BitVec 4) : (s.setVoice v x).chan e = s.chan e := rfl
@[simp] theorem State.setVoice_activeOf (v : Nat) (x : Voice) (e : BitVec 4) : (s.setVoice v x).activeOf e = s.activeOf e := rfl
@[simp] theorem State.setVoice_trec (v : Nat) (x : Voice) (t : BitVec 9) (f : TimbreField) : (s.setVoice v x).trec t f = s.trec t f := rfl

/-! ### `State.setChan` -/

@[simp] theorem State.setChan_hw (c : BitVec 4) (k : Chan) : (s.setChan c k).hw = s.hw := rfl
@[simp] theorem State.setChan_cfg (c : BitVec 4) (k : Chan) : (s.setChan c k).cfg = s.cfg := rfl
@[simp] theorem State.setChan_voices (c : BitVec 4) (k : Chan) : (s.setChan c k).voices = s.voices := rfl
@[simp] theorem State.setChan_free (c : BitVec 4) (k : Chan) : (s.setChan c k).free = s.free := rfl
@[simp] theorem State.setChan_active (c : BitVec 4) (k : Chan) : (s.setChan c k).active = s.active := rfl
@[simp] theorem State.setChan_chans (c : BitVec 4) (k : Chan) : (s.setChan c k).chans = s.chans.set c.toNat k c.isLt := rfl
@[simp] theorem State.setChan_shadow (c : BitVec 4) (k : Chan) : (s.setChan c k).shadow = s.shadow := rfl
@[simp] theorem State.setChan_cfgerr (c : BitVec 4) (k : Chan) : (s.setChan c k).cfgerr = s.cfgerr := rfl
@[simp] theorem State.setChan_errcode (c : BitVec 4) (k : Chan) : (s.setChan c k).errcode = s.errcode := rfl
@[simp] theorem State.setChan_errcmd (c : BitVec 4) (k : Chan) : (s.setChan c k).errcmd = s.errcmd := rfl
@[simp] theorem State.setChan_ram (c : BitVec 4) (k : Chan) : (s.setChan c k).ram = s.ram := rfl
@[simp] theorem State.setChan_out (c : BitVec 4) (k : Chan) : (s.setChan c k).out = s.out := rfl
@[simp] theorem State.setChan_inputs (c : BitVec 4) (k : Chan) : (s.setChan c k).inputs = s.inputs := rfl
@[simp] theorem State.setChan_voice (c : BitVec 4) (k : Chan) (w : Nat) : (s.setChan c k).voice w = s.voice w := rfl
@[simp] theorem State.setChan_activeOf (c : BitVec 4) (k : Chan) (e : BitVec 4) : (s.setChan c k).activeOf e = s.activeOf e := rfl
@[simp] theorem State.setChan_trec (c : BitVec 4) (k : Chan) (t : BitVec 9) (f : TimbreField) : (s.setChan c k).trec t f = s.trec t f := rfl

/-! ### `State.setActive` -/

@[simp] theorem State.setActive_hw (c : BitVec 4) (l : List Nat) : (s.setActive c l).hw = s.hw := rfl
@[simp] theorem State.setActive_cfg (c : BitVec 4) (l : List Nat) : (s.setActive c l).cfg = s.cfg := rfl
@[simp] theorem State.setActive_voices (c : BitVec 4) (l : List Nat) : (s.setActive c l).voices = s.voices := rfl
@[simp] theorem State.setActive_free (c : BitVec 4) (l : List Nat) : (s.setActive c l).free = s.free := rfl
@[simp] theorem State.setActive_active (c : BitVec 4) (l : List Nat) : (s.setActive c l).active = s.active.set c.toNat l c.isLt := rfl
@[simp] theorem State.setActive_chans (c : BitVec 4) (l : List Nat) : (s.setActive c l).chans = s.chans := rfl
@[simp] theorem State.setActive_shadow (c : BitVec 4) (l : List Nat) : (s.setActive c l).shadow = s.shadow := rfl
@[simp] theorem State.setActive_cfgerr (c : BitVec 4) (l : List Nat) : (s.setActive c l).cfgerr = s.cfgerr := rfl
@[simp] theorem State.setActive_errcode (c : BitVec 4) (l : List Nat) : (s.setActive c l).errcode = s.errcode := rfl
@[simp] theorem State.setActive_errcmd (c : BitVec 4) (l : List Nat) : (s.setActive c l).errcmd = s.errcmd := rfl
@[simp] theorem State.setActive_ram (c : BitVec 4) (l : List Nat) : (s.setActive c l).ram = s.ram := rfl
@[simp] theorem State.setActive_out (c : BitVec 4) (l : List Nat) : (s.setActive c l).out = s.out := rfl
@[simp] theorem State.setActive_inputs (c : BitVec 4) (l : List Nat) : (s.setActive c l).inputs = s.inputs := rfl
@[simp] theorem State.setActive_voice (c : BitVec 4) (l : List Nat) (w : Nat) : (s.setActive c l).voice w = s.voice w := rfl
@[simp] theorem State.setActive_chan (c : BitVec 4) (l : List Nat) (e : BitVec 4) : (s.setActive c l).chan e = s.chan e := rfl
@[simp] theorem State.setActive_trec (c : BitVec 4) (l : List Nat) (t : BitVec 9) (f : TimbreField) : (s.setActive c l).trec t f = s.trec t f := rfl

/-! ### `State.setFree` -/

@[simp] theorem State.setFree_hw (l : List Nat) : (s.setFree l).hw = s.hw := rfl
@[simp] theorem State.setFree_cfg (l : List Nat) : (s.setFree l).cfg = s.cfg := rfl
@[simp] theorem State.setFree_voices (l : List Nat) : (s.setFree l).voices = s.voices := rfl
@[simp] theorem State.setFree_free (l : List Nat) : (s.setFree l).free = l := rfl
@[simp] theorem State.setFree_active (l : List Nat) : (s.setFree l).active = s.active := rfl
@[simp] theorem State.setFree_chans (l : List Nat) : (s.setFree l).chans = s.chans := rfl
@[simp] theorem State.setFree_shadow (l : List Nat) : (s.setFree l).shadow = s.shadow := rfl
@[simp] theorem State.setFree_cfgerr (l : List Nat) : (s.setFree l).cfgerr = s.cfgerr := rfl
@[simp] theorem State.setFree_errcode (l : List Nat) : (s.setFree l).errcode = s.errcode := rfl
@[simp] theorem State.setFree_errcmd (l : List Nat) : (s.setFree l).errcmd = s.errcmd := rfl
@[simp] theorem State.setFree_ram (l : List Nat) : (s.setFree l).ram = s.ram := rfl
@[simp] theorem State.setFree_out (l : List Nat) : (s.setFree l).out = s.out := rfl
@[simp] theorem State.setFree_inputs (l : List Nat) : (s.setFree l).inputs = s.inputs := rfl
@[simp] theorem State.setFree_voice (l : List Nat) (w : Nat) : (s.setFree l).voice w = s.voice w := rfl
@[simp] theorem State.setFree_chan (l : List Nat) (e : BitVec 4) : (s.setFree l).chan e = s.chan e := rfl
@[simp] theorem State.setFree_activeOf (l : List Nat) (e : BitVec 4) : (s.setFree l).activeOf e = s.activeOf e := rfl
@[simp] theorem State.setFree_trec (l : List Nat) (t : BitVec 9) (f : TimbreField) : (s.setFree l).trec t f = s.trec t f := rfl

/-! ### `State.ramWrite` -/

@[simp] theorem State.ramWrite_hw (a : Nat) (b : Byte) : (s.ramWrite a b).hw = s.hw := rfl
@[simp] theorem State.ramWrite_cfg (a : Nat) (b : Byte) : (s.ramWrite a b).cfg = s.cfg := rfl
@[simp] theorem State.ramWrite_voices (a : Nat) (b : Byte) : (s.ramWrite a b).voices = s.voices := rfl
@[simp] theorem State.ramWrite_free (a : Nat) (b : Byte) : (s.ramWrite a b).free = s.free := rfl
@[simp] theorem State.ramWrite_active (a : Nat) (b : Byte) : (s.ramWrite a b).active = s.active := rfl
@[simp] theorem State.ramWrite_chans (a : Nat) (b : Byte) : (s.ramWrite a b).chans = s.chans := rfl
@[simp] theorem State.ramWrite_shadow (a : Nat) (b : Byte) : (s.ramWrite a b).shadow = s.shadow := rfl
@[simp] theorem State.ramWrite_cfgerr (a : Nat) (b : Byte) : (s.ramWrite a b).cfgerr = s.cfgerr := rfl
@[simp] theorem State.ramWrite_errcode (a : Nat) (b : Byte) : (s.ramWrite a b).errcode = s.errcode := rfl
@[simp] theorem State.ramWrite_errcmd (a : Nat) (b : Byte) : (s.ramWrite a b).errcmd = s.errcmd := rfl
@[simp] theorem State.ramWrite_ram (a : Nat) (b : Byte) : (s.ramWrite a b).ram = Memory.write ramUnlisted s.ram a b := rfl
@[simp] theorem State.ramWrite_out (a : Nat) (b : Byte) : (s.ramWrite a b).out = s.out := rfl
@[simp] theorem State.ramWrite_inputs (a : Nat) (b : Byte) : (s.ramWrite a b).inputs = s.inputs := rfl
@[simp] theorem State.ramWrite_voice (a : Nat) (b : Byte) (w : Nat) : (s.ramWrite a b).voice w = s.voice w := rfl
@[simp] theorem State.ramWrite_chan (a : Nat) (b : Byte) (e : BitVec 4) : (s.ramWrite a b).chan e = s.chan e := rfl
@[simp] theorem State.ramWrite_activeOf (a : Nat) (b : Byte) (e : BitVec 4) : (s.ramWrite a b).activeOf e = s.activeOf e := rfl

/-! ### `State.emitReg` -/

@[simp] theorem State.emitReg_hw (a : BitVec 16) (d : Byte) : (s.emitReg a d).hw = s.hw := rfl
@[simp] theorem State.emitReg_cfg (a : BitVec 16) (d : Byte) : (s.emitReg a d).cfg = s.cfg := rfl
@[simp] theorem State.emitReg_voices (a : BitVec 16) (d : Byte) : (s.emitReg a d).voices = s.voices := rfl
@[simp] theorem State.emitReg_free (a : BitVec 16) (d : Byte) : (s.emitReg a d).free = s.free := rfl
@[simp] theorem State.emitReg_active (a : BitVec 16) (d : Byte) : (s.emitReg a d).active = s.active := rfl
@[simp] theorem State.emitReg_chans (a : BitVec 16) (d : Byte) : (s.emitReg a d).chans = s.chans := rfl
@[simp] theorem State.emitReg_shadow (a : BitVec 16) (d : Byte) : (s.emitReg a d).shadow = Memory.write shadowUnlisted s.shadow a.toNat d := rfl
@[simp] theorem State.emitReg_cfgerr (a : BitVec 16) (d : Byte) : (s.emitReg a d).cfgerr = s.cfgerr := rfl
@[simp] theorem State.emitReg_errcode (a : BitVec 16) (d : Byte) : (s.emitReg a d).errcode = s.errcode := rfl
@[simp] theorem State.emitReg_errcmd (a : BitVec 16) (d : Byte) : (s.emitReg a d).errcmd = s.errcmd := rfl
@[simp] theorem State.emitReg_ram (a : BitVec 16) (d : Byte) : (s.emitReg a d).ram = s.ram := rfl
@[simp] theorem State.emitReg_out (a : BitVec 16) (d : Byte) : (s.emitReg a d).out = s.out ++ [OutItem.reg a d] := rfl
@[simp] theorem State.emitReg_inputs (a : BitVec 16) (d : Byte) : (s.emitReg a d).inputs = s.inputs := rfl
@[simp] theorem State.emitReg_voice (a : BitVec 16) (d : Byte) (w : Nat) : (s.emitReg a d).voice w = s.voice w := rfl
@[simp] theorem State.emitReg_chan (a : BitVec 16) (d : Byte) (e : BitVec 4) : (s.emitReg a d).chan e = s.chan e := rfl
@[simp] theorem State.emitReg_activeOf (a : BitVec 16) (d : Byte) (e : BitVec 4) : (s.emitReg a d).activeOf e = s.activeOf e := rfl
@[simp] theorem State.emitReg_trec (a : BitVec 16) (d : Byte) (t : BitVec 9) (f : TimbreField) : (s.emitReg a d).trec t f = s.trec t f := rfl

/-! ### `State.emitPan` -/

@[simp] theorem State.emitPan_hw (a : BitVec 16) (d : Byte) : (s.emitPan a d).hw = s.hw := rfl
@[simp] theorem State.emitPan_cfg (a : BitVec 16) (d : Byte) : (s.emitPan a d).cfg = s.cfg := rfl
@[simp] theorem State.emitPan_voices (a : BitVec 16) (d : Byte) : (s.emitPan a d).voices = s.voices := rfl
@[simp] theorem State.emitPan_free (a : BitVec 16) (d : Byte) : (s.emitPan a d).free = s.free := rfl
@[simp] theorem State.emitPan_active (a : BitVec 16) (d : Byte) : (s.emitPan a d).active = s.active := rfl
@[simp] theorem State.emitPan_chans (a : BitVec 16) (d : Byte) : (s.emitPan a d).chans = s.chans := rfl
@[simp] theorem State.emitPan_shadow (a : BitVec 16) (d : Byte) : (s.emitPan a d).shadow = s.shadow := rfl
@[simp] theorem State.emitPan_cfgerr (a : BitVec 16) (d : Byte) : (s.emitPan a d).cfgerr = s.cfgerr := rfl
@[simp] theorem State.emitPan_errcode (a : BitVec 16) (d : Byte) : (s.emitPan a d).errcode = s.errcode := rfl
@[simp] theorem State.emitPan_errcmd (a : BitVec 16) (d : Byte) : (s.emitPan a d).errcmd = s.errcmd := rfl
@[simp] theorem State.emitPan_ram (a : BitVec 16) (d : Byte) : (s.emitPan a d).ram = s.ram := rfl
@[simp] theorem State.emitPan_out (a : BitVec 16) (d : Byte) : (s.emitPan a d).out = s.out ++ [OutItem.pan a d] := rfl
@[simp] theorem State.emitPan_inputs (a : BitVec 16) (d : Byte) : (s.emitPan a d).inputs = s.inputs := rfl
@[simp] theorem State.emitPan_voice (a : BitVec 16) (d : Byte) (w : Nat) : (s.emitPan a d).voice w = s.voice w := rfl
@[simp] theorem State.emitPan_chan (a : BitVec 16) (d : Byte) (e : BitVec 4) : (s.emitPan a d).chan e = s.chan e := rfl
@[simp] theorem State.emitPan_activeOf (a : BitVec 16) (d : Byte) (e : BitVec 4) : (s.emitPan a d).activeOf e = s.activeOf e := rfl
@[simp] theorem State.emitPan_trec (a : BitVec 16) (d : Byte) (t : BitVec 9) (f : TimbreField) : (s.emitPan a d).trec t f = s.trec t f := rfl

/-! ### `State.emitRst` -/

@[simp] theorem State.emitRst_hw : s.emitRst.hw = s.hw := rfl
@[simp] theorem State.emitRst_cfg : s.emitRst.cfg = s.cfg := rfl
@[simp] theorem State.emitRst_voices : s.emitRst.voices = s.voices := rfl
@[simp] theorem State.emitRst_free : s.emitRst.free = s.free := rfl
@[simp] theorem State.emitRst_active : s.emitRst.active = s.active := rfl
@[simp] theorem State.emitRst_chans : s.emitRst.chans = s.chans := rfl
@[simp] theorem State.emitRst_shadow : s.emitRst.shadow = s.shadow := rfl
@[simp] theorem State.emitRst_cfgerr : s.emitRst.cfgerr = s.cfgerr := rfl
@[simp] theorem State.emitRst_errcode : s.emitRst.errcode = s.errcode := rfl
@[simp] theorem State.emitRst_errcmd : s.emitRst.errcmd = s.errcmd := rfl
@[simp] theorem State.emitRst_ram : s.emitRst.ram = s.ram := rfl
@[simp] theorem State.emitRst_out : s.emitRst.out = s.out ++ [OutItem.rst] := rfl
@[simp] theorem State.emitRst_inputs : s.emitRst.inputs = s.inputs := rfl
@[simp] theorem State.emitRst_voice (w : Nat) : s.emitRst.voice w = s.voice w := rfl
@[simp] theorem State.emitRst_chan (e : BitVec 4) : s.emitRst.chan e = s.chan e := rfl
@[simp] theorem State.emitRst_activeOf (e : BitVec 4) : s.emitRst.activeOf e = s.activeOf e := rfl
@[simp] theorem State.emitRst_trec (t : BitVec 9) (f : TimbreField) : s.emitRst.trec t f = s.trec t f := rfl

/-! ### `State.clearShadow` -/

@[simp] theorem State.clearShadow_hw : s.clearShadow.hw = s.hw := rfl
@[simp] theorem State.clearShadow_cfg : s.clearShadow.cfg = s.cfg := rfl
@[simp] theorem State.clearShadow_voices : s.clearShadow.voices = s.voices := rfl
@[simp] theorem State.clearShadow_free : s.clearShadow.free = s.free := rfl
@[simp] theorem State.clearShadow_active : s.clearShadow.active = s.active := rfl
@[simp] theorem State.clearShadow_chans : s.clearShadow.chans = s.chans := rfl
@[simp] theorem State.clearShadow_shadow : s.clearShadow.shadow = [] := rfl
@[simp] theorem State.clearShadow_cfgerr : s.clearShadow.cfgerr = s.cfgerr := rfl
@[simp] theorem State.clearShadow_errcode : s.clearShadow.errcode = s.errcode := rfl
@[simp] theorem State.clearShadow_errcmd : s.clearShadow.errcmd = s.errcmd := rfl
@[simp] theorem State.clearShadow_ram : s.clearShadow.ram = s.ram := rfl
@[simp] theorem State.clearShadow_out : s.clearShadow.out = s.out := rfl
@[simp] theorem State.clearShadow_inputs : s.clearShadow.inputs = s.inputs := rfl
@[simp] theorem State.clearShadow_voice (w : Nat) : s.clearShadow.voice w = s.voice w := rfl
@[simp] theorem State.clearShadow_chan (e : BitVec 4) : s.clearShadow.chan e = s.chan e := rfl
@[simp] theorem State.clearShadow_activeOf (e : BitVec 4) : s.clearShadow.activeOf e = s.activeOf e := rfl
@[simp] theorem State.clearShadow_trec (t : BitVec 9) (f : TimbreField) : s.clearShadow.trec t f = s.trec t f := rfl

/-! ### `State.clearErrors` -/

@[simp] theorem State.clearErrors_hw : s.clearErrors.hw = s.hw := rfl
@[simp] theorem State.clearErrors_cfg : s.clearErrors.cfg = s.cfg := rfl
@[simp] theorem State.clearErrors_voices : s.clearErrors.voices = s.voices := rfl
@[simp] theorem State.clearErrors_free : s.clearErrors.free = s.free := rfl
@[simp] theorem State.clearErrors_active : s.clearErrors.active = s.active := rfl
@[simp] theorem State.clearErrors_chans : s.clearErrors.chans = s.chans := rfl
@[simp] theorem State.clearErrors_shadow : s.clearErrors.shadow = s.shadow := rfl
@[simp] theorem State.clearErrors_cfgerr : s.clearErrors.cfgerr = false := rfl
@[simp] theorem State.clearErrors_errcode : s.clearErrors.errcode = 0 := rfl
@[simp] theorem State.clearErrors_errcmd : s.clearErrors.errcmd = 0 := rfl
@[simp] theorem State.clearErrors_ram : s.clearErrors.ram = s.ram := rfl
@[simp] theorem State.clearErrors_out : s.clearErrors.out = s.out := rfl
@[simp] theorem State.clearErrors_inputs : s.clearErrors.inputs = s.inputs := rfl
@[simp] theorem State.clearErrors_voice (w : Nat) : s.clearErrors.voice w = s.voice w := rfl
@[simp] theorem State.clearErrors_chan (e : BitVec 4) : s.clearErrors.chan e = s.chan e := rfl
@[simp] theorem State.clearErrors_activeOf (e : BitVec 4) : s.clearErrors.activeOf e = s.activeOf e := rfl
@[simp] theorem State.clearErrors_trec (t : BitVec 9) (f : TimbreField) : s.clearErrors.trec t f = s.trec t f := rfl

/-! ### `State.stateReset` -/

@[simp] theorem State.stateReset_hw : s.stateReset.hw = s.hw := rfl
@[simp] theorem State.stateReset_cfg : s.stateReset.cfg = s.cfg := rfl
@[simp] theorem State.stateReset_voices : s.stateReset.voices = freshVoices s.hw s.cfg := rfl
@[simp] theorem State.stateReset_free : s.stateReset.free = freshFree s.hw s.cfg := rfl
@[simp] theorem State.stateReset_active : s.stateReset.active = Vector.replicate 16 [] := rfl
@[simp] theorem State.stateReset_chans : s.stateReset.chans = Vector.replicate 16 Chan.default := rfl
@[simp] theorem State.stateReset_shadow : s.stateReset.shadow = s.shadow := rfl
@[simp] theorem State.stateReset_cfgerr : s.stateReset.cfgerr = s.cfgerr := rfl
@[simp] theorem State.stateReset_errcode : s.stateReset.errcode = s.errcode := rfl
@[simp] theorem State.stateReset_errcmd : s.stateReset.errcmd = s.errcmd := rfl
@[simp] theorem State.stateReset_ram : s.stateReset.ram = s.ram := rfl
@[simp] theorem State.stateReset_out : s.stateReset.out = s.out := rfl
@[simp] theorem State.stateReset_inputs : s.stateReset.inputs = s.inputs := rfl
@[simp] theorem State.stateReset_trec (t : BitVec 9) (f : TimbreField) : s.stateReset.trec t f = s.trec t f := rfl

end Sys2Proof.Machine
end

