-- ==== Sys2Proof/Laws/Tables.lean ====
section
/-! SUPPORT. Reading a table after writing it. -/

namespace Sys2Proof.Machine

open Sys2Proof

variable (s : State)

theorem State.voice_setVoice_self {v : Nat} (x : Voice) (h : v < s.voices.length) : (s.setVoice v x).voice v = x := by
  simp [State.voice, List.getD_eq_getElem?_getD, h]

@[simp] theorem State.voice_setVoice_of_ne {v w : Nat} (x : Voice) (h : w ≠ v) :
    (s.setVoice v x).voice w = s.voice w := by
  simp [State.voice, List.getD_eq_getElem?_getD, List.getElem?_set_ne (Ne.symm h)]

@[simp] theorem State.setVoice_setVoice (v : Nat) (x y : Voice) :
    (s.setVoice v x).setVoice v y = s.setVoice v y := by
  simp [State.setVoice]

theorem State.setVoice_voices_length (v : Nat) (x : Voice) : (s.setVoice v x).voices.length = s.voices.length := by
  simp

@[simp] theorem State.chan_setChan_self (c : BitVec 4) (k : Chan) : (s.setChan c k).chan c = k := by
  simp [State.chan]

@[simp] theorem State.chan_setChan_of_ne {c d : BitVec 4} (k : Chan) (h : d ≠ c) :
    (s.setChan c k).chan d = s.chan d := by
  have : c.toNat ≠ d.toNat := fun e => h (BitVec.eq_of_toNat_eq e.symm)
  simp [State.chan, Vector.getElem_set_ne, this]

theorem State.chan_setChan (c d : BitVec 4) (k : Chan) :
    (s.setChan c k).chan d = if d = c then k else s.chan d := by
  split
  · next h => subst h; simp
  · next h => simp [h]

@[simp] theorem State.activeOf_setActive_self (c : BitVec 4) (l : List Nat) : (s.setActive c l).activeOf c = l := by
  simp [State.activeOf]

@[simp] theorem State.activeOf_setActive_of_ne {c d : BitVec 4} (l : List Nat) (h : d ≠ c) :
    (s.setActive c l).activeOf d = s.activeOf d := by
  have : c.toNat ≠ d.toNat := fun e => h (BitVec.eq_of_toNat_eq e.symm)
  simp [State.activeOf, Vector.getElem_set_ne, this]

theorem State.activeOf_setActive (c d : BitVec 4) (l : List Nat) :
    (s.setActive c l).activeOf d = if d = c then l else s.activeOf d := by
  split
  · next h => subst h; simp
  · next h => simp [h]

@[simp] theorem State.stateReset_chan (c : BitVec 4) : s.stateReset.chan c = Chan.default := by
  simp [State.chan]

@[simp] theorem State.stateReset_activeOf (c : BitVec 4) : s.stateReset.activeOf c = [] := by
  simp [State.activeOf]

theorem State.stateReset_voice {v : Nat} (h : v < s.hw.nvMax) :
    s.stateReset.voice v = Voice.fresh (categoryAt s.hw s.cfg v) (reservedAt s.hw s.cfg v) := by
  simp [State.voice, freshVoices, List.getD_eq_getElem?_getD, h]

/-- A state reset done twice is a state reset. -/
@[simp] theorem State.stateReset_stateReset : s.stateReset.stateReset = s.stateReset := rfl

end Sys2Proof.Machine
end

