-- ==== Sys2Proof/Laws/Emit.lean ====
section
/-! SUPPORT. Everything a write procedure does, said once: a record update of its voice, then `emitAll` of a list of
items, which changes `out` and `SHADOW` alone. -/

namespace Sys2Proof.Machine

open Sys2Proof

/-- `s` after emitting `items`: they go to the end of the output, and `SHADOW` follows them. -/
def State.emitAll (s : State) (items : List OutItem) : State :=
  { s with out := s.out ++ items, shadow := shadowAfter s.shadow items }

variable (s : State)

section Fields

variable (l : List OutItem)

@[simp] theorem State.emitAll_hw : (s.emitAll l).hw = s.hw := rfl
@[simp] theorem State.emitAll_cfg : (s.emitAll l).cfg = s.cfg := rfl
@[simp] theorem State.emitAll_voices : (s.emitAll l).voices = s.voices := rfl
@[simp] theorem State.emitAll_free : (s.emitAll l).free = s.free := rfl
@[simp] theorem State.emitAll_active : (s.emitAll l).active = s.active := rfl
@[simp] theorem State.emitAll_chans : (s.emitAll l).chans = s.chans := rfl
@[simp] theorem State.emitAll_shadow : (s.emitAll l).shadow = shadowAfter s.shadow l := rfl
@[simp] theorem State.emitAll_cfgerr : (s.emitAll l).cfgerr = s.cfgerr := rfl
@[simp] theorem State.emitAll_errcode : (s.emitAll l).errcode = s.errcode := rfl
@[simp] theorem State.emitAll_errcmd : (s.emitAll l).errcmd = s.errcmd := rfl
@[simp] theorem State.emitAll_ram : (s.emitAll l).ram = s.ram := rfl
@[simp] theorem State.emitAll_out : (s.emitAll l).out = s.out ++ l := rfl
@[simp] theorem State.emitAll_inputs : (s.emitAll l).inputs = s.inputs := rfl
@[simp] theorem State.emitAll_voice (v : Nat) : (s.emitAll l).voice v = s.voice v := rfl
@[simp] theorem State.emitAll_chan (c : BitVec 4) : (s.emitAll l).chan c = s.chan c := rfl
@[simp] theorem State.emitAll_activeOf (c : BitVec 4) : (s.emitAll l).activeOf c = s.activeOf c := rfl
@[simp] theorem State.emitAll_trec (t : BitVec 9) (f : TimbreField) : (s.emitAll l).trec t f = s.trec t f := rfl
@[simp] theorem State.emitAll_mapOp (v : Nat) (op : Fin 4) : (s.emitAll l).mapOp v op = s.mapOp v op := rfl
@[simp] theorem State.emitAll_mapPitch (v : Nat) : (s.emitAll l).mapPitch v = s.mapPitch v := rfl
@[simp] theorem State.emitAll_mapPan (v : Nat) : (s.emitAll l).mapPan v = s.mapPan v := rfl
@[simp] theorem State.emitAll_panBits (c : BitVec 4) : (s.emitAll l).panBits c = s.panBits c := rfl
@[simp] theorem State.emitAll_lookupPitch (v : Nat) : (s.emitAll l).lookupPitch v = s.lookupPitch v := rfl
@[simp] theorem State.emitAll_attenuation (v : Nat) : (s.emitAll l).attenuation v = s.attenuation v := rfl
@[simp] theorem State.emitAll_regItem (v : Nat) (b : BitVec 9) (o : Option (BitVec 9)) (d : Byte) :
    (s.emitAll l).regItem v b o d = s.regItem v b o d := rfl
@[simp] theorem State.emitAll_timbrePhase (v : Nat) : (s.emitAll l).timbrePhase v = s.timbrePhase v := rfl
@[simp] theorem State.emitAll_volumePhase (v : Nat) : (s.emitAll l).volumePhase v = s.volumePhase v := rfl
@[simp] theorem State.emitAll_pitchPhase (v : Nat) : (s.emitAll l).pitchPhase v = s.pitchPhase v := rfl
@[simp] theorem State.emitAll_panPhase (v : Nat) : (s.emitAll l).panPhase v = s.panPhase v := rfl
@[simp] theorem State.emitAll_keyOffItem (v : Nat) : (s.emitAll l).keyOffItem v = s.keyOffItem v := rfl

end Fields

@[simp] theorem State.emitAll_nil : s.emitAll [] = s := by
  simp [State.emitAll, shadowAfter]

@[simp] theorem State.emitAll_emitAll (l m : List OutItem) : (s.emitAll l).emitAll m = s.emitAll (l ++ m) := by
  simp [State.emitAll, shadowAfter, List.append_assoc]

theorem State.emitAll_setVoice (l : List OutItem) (v : Nat) (x : Voice) :
    (s.emitAll l).setVoice v x = (s.setVoice v x).emitAll l := rfl

theorem State.emitAll_setActive (l : List OutItem) (c : BitVec 4) (a : List Nat) :
    (s.emitAll l).setActive c a = (s.setActive c a).emitAll l := rfl

theorem State.emitAll_setFree (l : List OutItem) (a : List Nat) :
    (s.emitAll l).setFree a = (s.setFree a).emitAll l := rfl

/-! ### The write procedures -/

theorem State.emitReg_eq (a : BitVec 16) (d : Byte) : s.emitReg a d = s.emitAll [OutItem.reg a d] := rfl

theorem State.emitPan_eq (a : BitVec 16) (d : Byte) : s.emitPan a d = s.emitAll [OutItem.pan a d] := rfl

theorem State.writeVoiceReg_eq (v : Nat) (b : BitVec 9) (o : Option (BitVec 9)) (d : Byte) :
    s.writeVoiceReg v b o d = s.emitAll (s.regItem v b o d) := by
  cases o with
  | none => simp [State.writeVoiceReg, State.writeReg, regAt, State.regItem]
  | some x => rfl

/-- Everything KeyOffWrite does (44_register_mapper.md R267). -/
theorem State.keyOffWrite_eq (v : Nat) : s.keyOffWrite v = s.emitAll (s.keyOffItem v) := by
  simp [State.keyOffWrite, State.writeVoiceReg_eq, State.keyOffItem, freqHiByte]

/-- Everything the volume phase does (44_register_mapper.md R263). -/
theorem State.applyVolume_eq (v : Nat) : s.applyVolume v = s.emitAll (s.volumePhase v) := by
  simp [State.applyVolume, State.writeVoiceReg_eq, State.volumePhase, levelByte]

/-- Everything the pan phase does (44_register_mapper.md R269). -/
theorem State.applyPan_eq (v : Nat) : s.applyPan v = s.emitAll (s.panPhase v) := by
  unfold State.applyPan State.panPhase
  cases h : s.mapPan v with
  | none => simp [regAt]
  | some x =>
    simp only [regAt, Option.map_some, State.writeReg, State.emitReg_eq, State.emitPan_eq, State.emitAll_emitAll,
      fbconnByte, State.chipOf]
    split <;> simp

theorem State.applyOperator_eq (v : Nat) (t : BitVec 9) (op : Fin 2) :
    s.applyOperator v t op =
      s.emitAll (s.regItem v s.hw.banks.char (s.mapOp v (op.castLE (by decide))) (s.trec t (.char op)) ++
        s.regItem v s.hw.banks.env1 (s.mapOp v (op.castLE (by decide))) (s.trec t (.env1 op)) ++
        s.regItem v s.hw.banks.env2 (s.mapOp v (op.castLE (by decide))) (s.trec t (.env2 op)) ++
        s.regItem v s.hw.banks.wave (s.mapOp v (op.castLE (by decide))) (s.trec t (.wave op))) := by
  simp [State.applyOperator, State.writeVoiceReg_eq]

/-- Everything the timbre phase does when it is not skipped (44_register_mapper.md R260): the voice remembers the
record, and the phase's items go out. -/
theorem State.applyTimbre_of_ne {v : Nat} {t : BitVec 9} (hv : v < s.voices.length) (ht : (s.voice v).timbre ≠ t) :
    s.applyTimbre v t =
      (s.setVoice v { s.voice v with timbre := t }).emitAll
        ((s.setVoice v { s.voice v with timbre := t }).timbrePhase v) := by
  have hx : ∀ x, (s.setVoice v x).voice v = x := fun x => s.voice_setVoice_self x hv
  unfold State.applyTimbre
  rw [if_neg ht]
  simp only [State.applyOperator_eq, State.writeVoiceReg_eq, State.emitAll_emitAll, State.timbrePhase, hx, fbconnByte,
    State.emitAll_regItem, State.emitAll_mapOp, State.emitAll_trec, State.emitAll_mapPan, State.emitAll_panBits,
    State.emitAll_voice, State.emitAll_hw, List.append_assoc]
  rfl

/-- The timbre phase is skipped when the voice's registers hold the record already (44_register_mapper.md R261). -/
theorem State.applyTimbre_of_eq {v : Nat} {t : BitVec 9} (ht : (s.voice v).timbre = t) : s.applyTimbre v t = s := by
  rw [State.applyTimbre, if_pos ht]

/-- Everything the pitch phase does with the key-on bit 1 (44_register_mapper.md R266). -/
theorem State.applyPitch_eq (v : Nat) :
    s.applyPitch v true =
      (s.setVoice v { s.voice v with pitch := s.lookupPitch v }).emitAll (s.pitchPhase v) := by
  simp only [State.applyPitch, State.writeVoiceReg_eq, State.emitAll_emitAll, State.pitchPhase, freqLoByte, freqHiByte]
  rfl

/-! ### What the lookups and the phases depend on -/

/-- Two states alike in all that the write procedures of voice `v` read: the parameters, the configuration, the timbre
RAM, the channel table, and the voice but for its last pitch. -/
structure SameFor (v : Nat) (s t : State) : Prop where
  hw    : t.hw = s.hw
  cfg   : t.cfg = s.cfg
  ram   : t.ram = s.ram
  chans : t.chans = s.chans
  voice : ∃ p, t.voice v = { s.voice v with pitch := p }

theorem SameFor.refl (v : Nat) (s : State) : SameFor v s s := ⟨rfl, rfl, rfl, rfl, _, rfl⟩

theorem SameFor.emitAll {v : Nat} {s t : State} (h : SameFor v s t) (l : List OutItem) : SameFor v s (t.emitAll l) :=
  ⟨h.hw, h.cfg, h.ram, h.chans, h.voice⟩

theorem SameFor.trec {v : Nat} {s t : State} (h : SameFor v s t) (r : BitVec 9) (f : TimbreField) :
    t.trec r f = s.trec r f := by
  simp [State.trec, State.ramByte, h.ram]

theorem SameFor.chan {v : Nat} {s t : State} (h : SameFor v s t) (c : BitVec 4) : t.chan c = s.chan c := by
  simp [State.chan, h.chans]

theorem SameFor.lookupPitch {v : Nat} {s t : State} (h : SameFor v s t) : t.lookupPitch v = s.lookupPitch v := by
  obtain ⟨p, hp⟩ := h.voice
  simp [State.lookupPitch, State.notePos, pitchPosition, pitchSum, Voice.chanIndex, hp, h.hw, h.cfg, h.trec, h.chan]

theorem SameFor.attenuation {v : Nat} {s t : State} (h : SameFor v s t) : t.attenuation v = s.attenuation v := by
  obtain ⟨p, hp⟩ := h.voice
  simp [State.attenuation, State.volumeInput, Voice.chanIndex, hp, h.hw, h.cfg, h.trec, h.chan]

theorem SameFor.mapOp {v : Nat} {s t : State} (h : SameFor v s t) (op : Fin 4) : t.mapOp v op = s.mapOp v op := by
  obtain ⟨p, hp⟩ := h.voice
  simp only [State.mapOp, State.localSlot, State.opRow, h.hw, h.cfg, hp]

theorem SameFor.mapPitch {v : Nat} {s t : State} (h : SameFor v s t) : t.mapPitch v = s.mapPitch v := by
  simp [State.mapPitch, State.localSlot, h.hw]

theorem SameFor.mapPan {v : Nat} {s t : State} (h : SameFor v s t) : t.mapPan v = s.mapPan v := by
  simp [State.mapPan, State.localSlot, h.hw]

theorem SameFor.panBits {v : Nat} {s t : State} (h : SameFor v s t) (c : BitVec 4) : t.panBits c = s.panBits c := by
  simp [State.panBits, h.hw, h.cfg, h.chan]

theorem SameFor.regItem {v : Nat} {s t : State} (h : SameFor v s t) (b : BitVec 9) (o : Option (BitVec 9)) (d : Byte) :
    t.regItem v b o d = s.regItem v b o d := by
  simp [State.regItem, h.hw]

theorem SameFor.timbrePhase {v : Nat} {s t : State} (h : SameFor v s t) : t.timbrePhase v = s.timbrePhase v := by
  obtain ⟨p, hp⟩ := h.voice
  simp [State.timbrePhase, Voice.chanIndex, hp, h.hw, h.trec, h.mapOp, h.mapPan, h.panBits, h.regItem]

theorem SameFor.volumePhase {v : Nat} {s t : State} (h : SameFor v s t) : t.volumePhase v = s.volumePhase v := by
  obtain ⟨p, hp⟩ := h.voice
  simp [State.volumePhase, hp, h.hw, h.trec, h.mapOp, h.regItem, h.attenuation]

theorem SameFor.pitchPhase {v : Nat} {s t : State} (h : SameFor v s t) : t.pitchPhase v = s.pitchPhase v := by
  simp [State.pitchPhase, h.hw, h.mapPitch, h.regItem, h.lookupPitch]

theorem SameFor.panPhase {v : Nat} {s t : State} (h : SameFor v s t) : t.panPhase v = s.panPhase v := by
  obtain ⟨p, hp⟩ := h.voice
  simp [State.panPhase, Voice.chanIndex, hp, h.hw, h.cfg, h.trec, h.mapPan, h.panBits, h.chan]

/-- Everything a note start does on a voice of the table (44_register_mapper.md R270): the voice remembers the record
and the pitch, and the items of the four phases go out in their order, each as the resulting state `t` gives it. -/
theorem State.startNote_eq {v : Nat} (t : BitVec 9) (hv : v < s.voices.length) :
    ∃ x : Voice, ∃ u : State,
      u = (s.setVoice v x).emitAll
        ((if (s.voice v).timbre = t then [] else u.timbrePhase v) ++ u.volumePhase v ++ u.pitchPhase v ++ u.panPhase v) ∧
      x = { s.voice v with timbre := t, pitch := u.lookupPitch v } ∧ s.startNote v t = u := by
  -- the voice with the record applied, and the state it stands in
  generalize hx : ({ s.voice v with timbre := t } : Voice) = x₀
  have hself : (s.setVoice v x₀).voice v = x₀ := s.voice_setVoice_self x₀ hv
  generalize hb : s.setVoice v x₀ = b at hself
  have hbx : ∀ y, b.setVoice v y = s.setVoice v y := by intro y; rw [← hb]; simp
  have hblen : v < b.voices.length := by rw [← hb]; simpa using hv
  -- every state on the way is alike to `b` in what the phases read
  have key : ∀ l, SameFor v b ((b.setVoice v { x₀ with pitch := b.lookupPitch v }).emitAll l) := fun l =>
    ⟨rfl, rfl, rfl, rfl, b.lookupPitch v, by
      rw [State.emitAll_voice, b.voice_setVoice_self _ hblen, hself]⟩
  have hT : s.applyTimbre v t =
      b.emitAll (if (s.voice v).timbre = t then [] else b.timbrePhase v) := by
    split
    · next h =>
      rw [s.applyTimbre_of_eq h, State.emitAll_nil, ← hb, ← hx]
      have : ({ s.voice v with timbre := t } : Voice) = s.voice v := by rw [← h]
      rw [this]
      simp [State.setVoice, State.voice, List.getD_eq_getElem?_getD, hv]
    · next h => rw [s.applyTimbre_of_ne hv h, hx, hb]
  refine ⟨{ x₀ with pitch := b.lookupPitch v }, s.startNote v t, ?_, ?_, rfl⟩ <;>
  · have hs : s.startNote v t = (b.setVoice v { x₀ with pitch := b.lookupPitch v }).emitAll
        ((if (s.voice v).timbre = t then [] else b.timbrePhase v) ++ b.volumePhase v ++ b.pitchPhase v ++
          b.panPhase v) := by
      have hpan := fun l => (key l).panPhase
      simp only [State.startNote, hT, State.applyVolume_eq, State.emitAll_volumePhase, State.emitAll_emitAll,
        State.applyPitch_eq, State.emitAll_voice, State.emitAll_lookupPitch, State.emitAll_pitchPhase, hself,
        State.emitAll_setVoice, State.applyPan_eq, State.emitAll_panPhase] at hpan ⊢
      rw [hpan []]
    rw [hs]
    simp only [(key _).timbrePhase, (key _).volumePhase, (key _).pitchPhase, (key _).panPhase, (key _).lookupPitch]
    first | (rw [hbx]) | (rw [← hx])

end Sys2Proof.Machine
end

