-- ==== Sys2Proof/Laws/Effects.lean ====
section
/-! SUPPORT. Everything the shared operations of the commands do, said once: releases, note starts, the loops over a
channel's voices, and the resets. -/

namespace Sys2Proof.Machine

open Sys2Proof

variable (s : State)

/-! ### Loops that only emit -/

/-- A loop whose body emits items that depend on nothing a loop body changes emits the items of its elements in order. -/
theorem foldl_emitAll {g : State → Nat → State} {f : State → Nat → List OutItem}
    (hg : ∀ s v, g s v = s.emitAll (f s v)) (hf : ∀ s l v, f (s.emitAll l) v = f s v) (vs : List Nat) :
    vs.foldl g s = s.emitAll (vs.flatMap (f s)) := by
  induction vs generalizing s with
  | nil => simp
  | cons v vs ih =>
    have hs : f (s.emitAll (f s v)) = f s := funext fun w => hf s (f s v) w
    rw [List.foldl_cons, hg, ih, State.emitAll_emitAll, List.flatMap_cons, hs]

/-- Controllers 7, 11 and 74 on the sounding voices (41_event_commands.md R166). -/
theorem State.forActive_applyVolume (c : BitVec 4) :
    s.forActive c State.applyVolume = s.emitAll ((s.activeOf c).flatMap s.volumePhase) :=
  foldl_emitAll s (fun s v => s.applyVolume_eq v) (fun s l v => s.emitAll_volumePhase l v) _

/-- Controller 10 on the sounding voices (R169). -/
theorem State.forActive_applyPan (c : BitVec 4) :
    s.forActive c State.applyPan = s.emitAll ((s.activeOf c).flatMap s.panPhase) :=
  foldl_emitAll s (fun s v => s.applyPan_eq v) (fun s l v => s.emitAll_panPhase l v) _

/-! ### The pitch loop -/

/-- Everything the pitch rewrite of a list of voices does (R170, R183): each voice's last pitch becomes what the lookup
gives it, and the pitch items go out in the list's order. Only the voice table, the output and `SHADOW` change. -/
theorem State.foldl_applyPitch (vs : List Nat) :
    ∃ voices, vs.foldl (fun s v => s.applyPitch v true) s =
        ({ s with voices := voices } : State).emitAll (vs.flatMap s.pitchPhase) ∧
      voices.length = s.voices.length ∧
      ∀ w, w < s.voices.length → ({ s with voices := voices } : State).voice w =
        if w ∈ vs then { s.voice w with pitch := s.lookupPitch w } else s.voice w := by
  induction vs generalizing s with
  | nil => exact ⟨s.voices, by simp, rfl, by simp⟩
  | cons v vs ih =>
    set x : Voice := { s.voice v with pitch := s.lookupPitch v } with hx
    -- the state after the first voice is alike to `s` in what every voice's lookup reads
    have hsame : ∀ w, w < s.voices.length → SameFor w s ((s.setVoice v x).emitAll (s.pitchPhase v)) := fun w hw =>
      ⟨rfl, rfl, rfl, rfl, by
        by_cases h : w = v
        · subst h; exact ⟨s.lookupPitch w, by rw [State.emitAll_voice, s.voice_setVoice_self x hw]⟩
        · exact ⟨(s.voice w).pitch, by simp [h]⟩⟩
    have hout : ∀ w, s.voices.length ≤ w → SameFor w s ((s.setVoice v x).emitAll (s.pitchPhase v)) := fun w hw =>
      ⟨rfl, rfl, rfl, rfl, (s.voice w).pitch, by
        simp [State.voice, List.getD_eq_getElem?_getD, hw]⟩
    have hall : ∀ w, SameFor w s ((s.setVoice v x).emitAll (s.pitchPhase v)) := fun w =>
      if hw : w < s.voices.length then hsame w hw else hout w (by omega)
    obtain ⟨voices, heq, hlen, hvoice⟩ := ih ((s.setVoice v x).emitAll (s.pitchPhase v))
    refine ⟨voices, ?_, by simpa using hlen, fun w hw => ?_⟩
    · rw [List.foldl_cons, s.applyPitch_eq v, heq, List.flatMap_cons]
      have hp : ((s.setVoice v x).emitAll (s.pitchPhase v)).pitchPhase = s.pitchPhase :=
        funext fun w => (hall w).pitchPhase
      rw [hp]
      show (({ s with voices := voices } : State).emitAll (s.pitchPhase v)).emitAll _ = _
      rw [State.emitAll_emitAll]
    · have := hvoice w (by simpa using hw)
      rw [(hall w).lookupPitch] at this
      refine Eq.trans this ?_
      by_cases h : w = v
      · subst h
        simp [hx, s.voice_setVoice_self _ hw]
      · simp [h]

/-! ### Releases -/

/-- The state ReleaseVoice leaves, but for its key-off item: the voice off and free, off its channel's list, and at the
tail of `FREE`. -/
def State.released (s : State) (v : Nat) : State :=
  ((s.setVoice v { s.voice v with on := false, owner := FREE_OWNER }).setActive (s.voice v).chanIndex
    ((s.activeOf (s.voice v).chanIndex).erase v)).setFree (s.free ++ [v])

/-- Everything ReleaseVoice does (40_voice_pool.md R134). -/
theorem State.releaseVoice_eq {v : Nat} (hv : v < s.voices.length) :
    s.releaseVoice v = (s.released v).emitAll (s.keyOffItem v) := by
  have hk : (s.setVoice v { s.voice v with on := false }).keyOffItem v = s.keyOffItem v := by
    simp [State.keyOffItem, State.regItem, State.mapPitch, State.localSlot, s.voice_setVoice_self _ hv]
  simp only [State.releaseVoice, State.keyOffWrite_eq, hk, State.emitAll_activeOf, State.setVoice_activeOf,
    State.emitAll_setActive, State.emitAll_voice, State.setActive_voice, s.voice_setVoice_self _ hv,
    State.emitAll_setVoice, State.emitAll_free, State.setVoice_free, State.setActive_free, State.emitAll_setFree]
  congr 1
  simp [State.released, State.setVoice, State.setActive, State.setFree]

/-- NOTEOFF with no such note does nothing (41_event_commands.md R160). -/
theorem State.noteOff_of_none {ch : BitVec 4} {key : BitVec 7} (h : s.findNote ch key = none) :
    s.noteOff ch key = s := by
  rw [State.noteOff, h]

/-- NOTEOFF releases the first active voice with the key (R160). -/
theorem State.noteOff_of_some {ch : BitVec 4} {key : BitVec 7} {v : Nat} (h : s.findNote ch key = some v) :
    s.noteOff ch key = s.releaseVoice v := by
  rw [State.noteOff, h]

/-- The forced NOTEOFF of a steal finds the head of the percussion channel's list (40_voice_pool.md R136). -/
theorem State.findNote_head {ch : BitVec 4} {h : Nat} {l : List Nat} (hl : s.activeOf ch = h :: l) :
    s.findNote ch (s.voice h).key = some h := by
  simp [State.findNote, hl]

/-! ### Resets -/

theorem State.initChip_eq (chip : Nat) : s.initChip chip = s.emitAll (initItems s.hw s.cfg chip) := by
  unfold State.initChip initItems
  cases s.hw.capChiptype <;> simp [State.writeReg, State.emitReg_eq]

theorem State.emitRst_clearShadow : s.emitRst.clearShadow = s.emitAll [OutItem.rst] := rfl

/-- Everything a full reset does (70_reset_and_hazards.md R351). -/
theorem State.fullReset_eq :
    s.fullReset = (s.clearErrors.emitAll (fullResetItems s.hw s.cfg)).stateReset := by
  have h := foldl_emitAll s.emitRst.clearShadow.clearErrors (g := State.initChip)
    (f := fun s chip => initItems s.hw s.cfg chip) (fun s c => s.initChip_eq c) (fun _ _ _ => rfl)
    (List.range s.cfg.nchips.toNat)
  show ((List.range s.cfg.nchips.toNat).foldl State.initChip s.emitRst.clearShadow.clearErrors).stateReset = _
  rw [h]
  show ((s.clearErrors.emitAll [OutItem.rst]).emitAll _).stateReset = _
  rw [State.emitAll_emitAll]
  rfl

/-- Everything a soft reset does (R356). -/
theorem State.softReset_eq :
    s.softReset = (s.emitAll ((List.range (s.cfg.nv s.hw)).flatMap
      fun v => if (s.voice v).on then s.keyOffItem v else [])).stateReset := by
  unfold State.softReset
  rw [foldl_emitAll s (g := fun s v => if (s.voice v).on then s.keyOffWrite v else s)
    (f := fun s v => if (s.voice v).on then s.keyOffItem v else [])]
  · intro s v
    split
    · exact s.keyOffWrite_eq v
    · exact s.emitAll_nil.symm
  · intro s l v; rfl

/-- Pin reset keeps the build, the timbre RAM, the output and the inputs, and nothing else (R350). -/
theorem State.pinReset_eq :
    s.pinReset = { State.resetOf s.hw with ram := s.ram, out := s.out, inputs := s.inputs } := rfl

end Sys2Proof.Machine
end

