-- ==== Sys2Proof/Laws/Exec.lean ====
section
/-! SUPPORT. What `exec` is on each constructor, the gates of the events, and what a step is. -/

namespace Sys2Proof.Machine

open Sys2Proof

variable (s : State)

@[simp] theorem exec_nop (z : BitVec 28) : exec (.nop z) s = .next s := rfl
@[simp] theorem exec_reserved3 (z : BitVec 28) : exec (.reserved3 z) s = .next s := rfl
@[simp] theorem exec_reserved4 (z : BitVec 28) : exec (.reserved4 z) s = .next s := rfl
@[simp] theorem exec_reserved5 (z : BitVec 28) : exec (.reserved5 z) s = .next s := rfl
@[simp] theorem exec_reserved6 (z : BitVec 28) : exec (.reserved6 z) s = .next s := rfl
@[simp] theorem exec_reserved7 (z : BitVec 28) : exec (.reserved7 z) s = .next s := rfl
@[simp] theorem exec_reservedA (z : BitVec 28) : exec (.reservedA z) s = .next s := rfl
@[simp] theorem exec_reservedD (z : BitVec 28) : exec (.reservedD z) s = .next s := rfl
@[simp] theorem exec_reset (z : BitVec 28) : exec (.reset z) s = .next s.fullReset := rfl

theorem exec_cfg (idx : BitVec 4) (val : BitVec 8) (z : BitVec 16) :
    exec (.cfg idx val z) s = .next (s.configure idx val (encode (.cfg idx val z))) := rfl

theorem exec_tbwr (addr : BitVec 12) (data z : BitVec 8) :
    exec (.tbwr addr data z) s = .next (s.timbreWrite addr data) := rfl

theorem exec_noteoff (ch : BitVec 4) (key vel z : BitVec 8) :
    exec (.noteoff ch key vel z) s =
      .next (gated (isSeven key && isSeven vel) (fun s => s.noteOff ch (seven key)) s) := rfl

theorem exec_noteon (ch : BitVec 4) (key vel z : BitVec 8) :
    exec (.noteon ch key vel z) s =
      .next (gated (isSeven key && isSeven vel) (fun s => s.noteOn ch (seven key) (seven vel)) s) := rfl

theorem exec_ctrl (ch : BitVec 4) (ctl val z : BitVec 8) :
    exec (.ctrl ch ctl val z) s =
      .next (gated (isSeven ctl && isSeven val) (fun s => s.controlChange ch (seven ctl) (seven val)) s) := rfl

theorem exec_prog (ch : BitVec 4) (prog : BitVec 8) (z : BitVec 16) :
    exec (.prog ch prog z) s = .next (gated (isSeven prog) (fun s => s.progChange ch (seven prog)) s) := rfl

theorem exec_bend (ch : BitVec 4) (lsb msb z : BitVec 8) :
    exec (.bend ch lsb msb z) s =
      .next (gated (isSeven lsb && isSeven msb) (fun s => s.pitchBend ch (seven lsb) (seven msb)) s) := rfl

/-! ### The gates (41_event_commands.md R150) -/

theorem isSeven_iff (x : Byte) : isSeven x = true ↔ x.toNat ≤ 127 := by
  simp [isSeven]

theorem gated_of_error {b : Bool} {f : State → State} (h : s.cfgerr = true) : gated b f s = s := by
  simp [gated, h]

theorem gated_of_bytes {b : Bool} {f : State → State} (h : b = false) : gated b f s = s := by
  simp [gated, h]

theorem gated_open {b : Bool} {f : State → State} (he : s.cfgerr = false) (hb : b = true) : gated b f s = f s := by
  simp [gated, he, hb]

/-- Every event either does nothing or has its effect. -/
theorem gated_cases (b : Bool) (f : State → State) :
    gated b f s = s ∨ (s.cfgerr = false ∧ b = true ∧ gated b f s = f s) := by
  unfold gated
  cases s.cfgerr <;> cases b <;> simp

/-! ### Steps -/

theorem step_of_nil (h : s.inputs = []) : step s = .next s := by
  simp [step, State.takeInput, h]

theorem step_of_command {w : Word} {rest : List HostInput} (h : s.inputs = .command w :: rest) :
    step s = exec (decode w) { s with inputs := rest } := by
  simp [step, State.takeInput, h]

theorem step_of_rstPulse {rest : List HostInput} (h : s.inputs = .rstPulse :: rest) :
    step s = .next ({ s with inputs := rest } : State).pinReset := by
  simp [step, State.takeInput, h]

end Sys2Proof.Machine
end

