-- ==== Sys2Proof/Laws/Events.lean ====
section
/-! SUPPORT. Words, addresses and attenuations as numbers; and what lies between an event's command word and the operations it runs: its data bytes, its gate once open,
the controller it names, and a voice's way through a binding, a release and a pitch rewrite. -/

namespace Sys2Proof.Machine

open Sys2Proof

variable (s : State)

/-! ### Words, addresses and attenuations as numbers -/

/-- The parts of a command word, an output item or a looked-up pitch, as a sum. -/
theorem toNat_append_sum {a b : Nat} (x : BitVec a) (y : BitVec b) : (x ++ y).toNat = x.toNat * 2 ^ b + y.toNat := by
  rw [BitVec.toNat_append, ← Nat.shiftLeft_add_eq_or_of_lt y.isLt, Nat.shiftLeft_eq]

/-- An output address as a sum of its chip and its offset (20_memory.md R78). -/
theorem outAddr_toNat {chip off : Nat} (hc : chip < 128) (ho : off < 512) :
    (outAddr chip off).toNat = chip * 512 + off := by
  rw [outAddr, ← Nat.shiftLeft_add_eq_or_of_lt (show off < 2 ^ 9 by omega), Nat.shiftLeft_eq, BitVec.toNat_ofNat]
  omega

/-- The scaling of 43_volume_model.md R225 fits its six bits. -/
theorem refScale_toNat (tl : BitVec 6) (y : Nat) : (refScale tl y).toNat = 63 - (63 - tl.toNat) * y / 127 := by
  rw [refScale, BitVec.toNat_ofNat]
  omega

/-! ### Data bytes and open gates -/

theorem isSeven_of_le {x : Byte} (h : x.toNat ≤ 127) : isSeven x = true := by simpa [isSeven]

theorem toNat_seven {x : Byte} (h : x.toNat ≤ 127) : (seven x).toNat = x.toNat := by
  simp [seven]; omega

theorem seven_ne_zero {x : Byte} (h : x.toNat ≤ 127) (h1 : 1 ≤ x.toNat) : seven x ≠ 0 := by
  intro e
  have := congrArg BitVec.toNat e
  rw [toNat_seven h] at this
  simp at this
  omega

theorem exec_noteoff_open {ch : BitVec 4} {key vel z : BitVec 8} (he : s.cfgerr = false) (hk : key.toNat ≤ 127)
    (hv : vel.toNat ≤ 127) : exec (.noteoff ch key vel z) s = .next (s.noteOff ch (seven key)) := by
  rw [exec_noteoff, gated_open s he (by simp [isSeven_of_le hk, isSeven_of_le hv])]

theorem exec_noteon_open {ch : BitVec 4} {key vel z : BitVec 8} (he : s.cfgerr = false) (hk : key.toNat ≤ 127)
    (hv : vel.toNat ≤ 127) : exec (.noteon ch key vel z) s = .next (s.noteOn ch (seven key) (seven vel)) := by
  rw [exec_noteon, gated_open s he (by simp [isSeven_of_le hk, isSeven_of_le hv])]

theorem exec_ctrl_open {ch : BitVec 4} {ctl val z : BitVec 8} (he : s.cfgerr = false) (hc : ctl.toNat ≤ 127)
    (hv : val.toNat ≤ 127) : exec (.ctrl ch ctl val z) s = .next (s.controlChange ch (seven ctl) (seven val)) := by
  rw [exec_ctrl, gated_open s he (by simp [isSeven_of_le hc, isSeven_of_le hv])]

theorem exec_prog_open {ch : BitVec 4} {prog : BitVec 8} {z : BitVec 16} (he : s.cfgerr = false)
    (hp : prog.toNat ≤ 127) : exec (.prog ch prog z) s = .next (s.progChange ch (seven prog)) := by
  rw [exec_prog, gated_open s he (isSeven_of_le hp)]

theorem exec_bend_open {ch : BitVec 4} {lsb msb z : BitVec 8} (he : s.cfgerr = false) (hl : lsb.toNat ≤ 127)
    (hm : msb.toNat ≤ 127) : exec (.bend ch lsb msb z) s = .next (s.pitchBend ch (seven lsb) (seven msb)) := by
  rw [exec_bend, gated_open s he (by simp [isSeven_of_le hl, isSeven_of_le hm])]

/-! ### Operands -/

/-- TimbreIndex as a number (41_event_commands.md R153). -/
theorem timbreIndex_toNat (ch : BitVec 4) (key prog : BitVec 7) :
    (timbreIndex ch key prog).toNat = if ch = 9 then 128 + key.toNat else prog.toNat := by
  unfold timbreIndex Config.PERC_CH
  split
  · simp [BitVec.toNat_add]; omega
  · simp; omega

/-- The detune operand as a signed number (30_encoding.md R106). -/
theorem detuneOf_toInt (val : BitVec 7) : (detuneOf val).toInt = (val.toNat : Int) - 64 := by
  have := val.isLt
  rw [detuneOf, BitVec.toInt_ofInt]
  simp [Int.bmod_def]
  omega

theorem bendValue_toNat (lsb msb : BitVec 7) : (bendValue lsb msb).toNat = msb.toNat * 128 + lsb.toNat := by
  have h : (bendValue lsb msb).toNat = msb.toNat <<< 7 ||| lsb.toNat := BitVec.toNat_append msb lsb
  rw [h, Nat.shiftLeft_eq, Nat.mul_comm, ← Nat.two_pow_add_eq_or_of_lt lsb.isLt]

/-! ### Controllers -/

/-- A controller with a number in the table runs its rule. -/
theorem State.controlChange_of_lookup {ch : BitVec 4} {ctl val : BitVec 7} {n : Nat} {k : Controller}
    (hn : ctl.toNat = n) (hk : controllerTable.lookup n = some k) :
    s.controlChange ch ctl val = s.control ch k val := by
  rw [State.controlChange, controllerOf, hn, hk]

/-- A controller without a number in the table does nothing (41_event_commands.md R180). -/
theorem State.controlChange_of_none {ch : BitVec 4} {ctl val : BitVec 7}
    (h : controllerTable.lookup ctl.toNat = none) : s.controlChange ch ctl val = s := by
  rw [State.controlChange, controllerOf, h]

/-! ### A voice through a release and a binding -/

theorem State.released_voice {v : Nat} (hv : v < s.voices.length) (w : Nat) :
    (s.released v).voice w =
      if w = v then { s.voice v with on := false, owner := FREE_OWNER } else s.voice w := by
  split
  · next h => subst h; simp [State.released, s.voice_setVoice_self _ hv]
  · next h => simp [State.released, h]

theorem State.bindVoice_voice {v : Nat} (ch : BitVec 4) (key vel : BitVec 7) (hv : v < s.voices.length) (w : Nat) :
    (s.bindVoice v ch key vel).voice w =
      if w = v then { s.voice v with owner := ch.setWidth 5, key := key, vel := vel, on := true } else s.voice w := by
  split
  · next h => subst h; simp [State.bindVoice, s.voice_setVoice_self _ hv]
  · next h => simp [State.bindVoice, h]

/-- A voice of an active list belongs to the list's channel. -/
theorem Consistent.chanIndex {s : State} (hc : Consistent s) {c : BitVec 4} {v : Nat} (hv : v ∈ s.activeOf c) :
    (s.voice v).chanIndex = c := by
  obtain ⟨-, -, -, ha, -⟩ := hc
  rw [Voice.chanIndex, (ha c v hv).2.2.2.1]
  ext i hi
  simp

/-- A live voice is a voice of the table. -/
theorem CfgLegal.lt_nvMax {p : Params} {c : Cfg} (h : CfgLegal p c) {v : Nat} (hv : v < c.nv p) : v < p.nvMax :=
  Nat.lt_of_lt_of_le hv (Nat.mul_le_mul_right _ h.2.1)

/-- A voice of an active list is a voice of the table. -/
theorem Consistent.lt_voices {s : State} (hc : Consistent s) {c : BitVec 4} {v : Nat} (hv : v ∈ s.activeOf c) :
    v < s.voices.length := by
  obtain ⟨hl, ht, -, ha, -⟩ := hc
  rw [ht.1]
  exact hl.lt_nvMax (ha c v hv).1

/-! ### The pitch rewrite of a channel's voices, after the channel itself has changed -/

/-- What a change of channel `ch` and the pitch rewrite of its voices do (41_event_commands.md R170, R176, R183). -/
theorem State.setChan_applyPitch (ch : BitVec 4) (k : Chan) :
    ∃ t, (s.setChan ch k).forActive ch (fun s v => s.applyPitch v true) = t ∧ t.chan ch = k ∧
      (∀ c, c ≠ ch → t.chan c = s.chan c) ∧
      (∀ w, w < s.voices.length → t.voice w =
        if w ∈ s.activeOf ch then { s.voice w with pitch := t.lookupPitch w } else s.voice w) ∧
      t.out = s.out ++ (s.activeOf ch).flatMap t.pitchPhase ∧
      t.shadow = shadowAfter s.shadow ((s.activeOf ch).flatMap t.pitchPhase) ∧
      t.voices.length = s.voices.length ∧
      t = { s with chans := t.chans, voices := t.voices, out := t.out, shadow := t.shadow } := by
  obtain ⟨vs, h1, h2, h3⟩ := (s.setChan ch k).foldl_applyPitch (s.activeOf ch)
  set u : State := { s.setChan ch k with voices := vs } with hu
  refine ⟨_, h1, ?_⟩
  have hsame : ∀ w, SameFor w (s.setChan ch k)
      (u.emitAll ((s.activeOf ch).flatMap (s.setChan ch k).pitchPhase)) := by
    intro w
    refine ⟨rfl, rfl, rfl, rfl, ?_⟩
    rw [State.emitAll_voice]
    by_cases hw : w < s.voices.length
    · rw [h3 w (by simpa using hw)]
      split
      · exact ⟨_, rfl⟩
      · exact ⟨((s.setChan ch k).voice w).pitch, rfl⟩
    · refine ⟨((s.setChan ch k).voice w).pitch, ?_⟩
      have hl : u.voices.length = s.voices.length := h2
      simp only [State.voice]
      rw [List.getD_eq_default _ _ (by omega), List.getD_eq_default _ _ (by simpa using hw)]
  have hp : (u.emitAll ((s.activeOf ch).flatMap (s.setChan ch k).pitchPhase)).pitchPhase =
      (s.setChan ch k).pitchPhase := funext fun w => (hsame w).pitchPhase
  refine ⟨by simp [hu, State.chan, State.emitAll, State.setChan], fun c h => ?_, fun w hw => ?_, ?_, ?_, h2, rfl⟩
  · show (s.setChan ch k).chan c = _
    simp [h]
  · rw [(hsame w).lookupPitch, State.emitAll_voice, h3 w (by simpa using hw)]
    rfl
  · rw [hp]; rfl
  · rw [hp]; rfl

/-! ### The causes of the trap -/

/-- The checks of CFG are the rows of 60_exceptions.md R321. -/
theorem cfgCause_iff (p : Params) (c : Cfg) (idx : BitVec 4) (val : BitVec 8) (code : Nat) :
    MisconfigRow p c idx.toNat val.toNat code ↔ ∃ k, cfgCause p c idx val = some k ∧ k.code.toNat = code := by
  have hi := idx.isLt
  have hv := val.isLt
  unfold cfgCause
  generalize idx.toNat = i at *
  generalize val.toNat = v at *
  simp only [MisconfigRow]
  cases p.capChiptype <;> simp only [reduceCtorEq, and_false, and_true, or_false]
  all_goals
    interval_cases i <;> simp only [Config.MAX_CHIPS]
  all_goals (repeat' split)
  all_goals simp [Cause.code]
  all_goals first | omega | contradiction

end Sys2Proof.Machine
end

