-- ==== Sys2Proof/Laws/Frame.lean ====
section
/-! SUPPORT. The frame of the shared operations, said once: what none of them touches, that they only append to the
output, and that each item they append has a property `P` that the items of its phase have. -/

namespace Sys2Proof.Machine

open Sys2Proof

/-- `t` comes from `s` by operations of events: build, configuration, timbre RAM, inputs and error registers are the
same, and the output grew by items that all have `P`, `SHADOW` following them. -/
structure EventFrame (P : OutItem → Prop) (s t : State) : Prop where
  hw     : t.hw = s.hw
  cfg    : t.cfg = s.cfg
  ram    : t.ram = s.ram
  inputs : t.inputs = s.inputs
  errors : t.cfgerr = s.cfgerr ∧ t.errcode = s.errcode ∧ t.errcmd = s.errcmd
  output : ∃ items, t.out = s.out ++ items ∧ t.shadow = shadowAfter s.shadow items ∧ ∀ x, x ∈ items → P x

namespace EventFrame

variable {P : OutItem → Prop} (s : State)

theorem refl : EventFrame P s s := ⟨rfl, rfl, rfl, rfl, ⟨rfl, rfl, rfl⟩, [], by simp, rfl, by simp⟩

theorem trans {s t u : State} (h : EventFrame P s t) (k : EventFrame P t u) : EventFrame P s u := by
  obtain ⟨i, h1, h2, h3⟩ := h.output
  obtain ⟨j, k1, k2, k3⟩ := k.output
  refine ⟨k.hw.trans h.hw, k.cfg.trans h.cfg, k.ram.trans h.ram, k.inputs.trans h.inputs,
    ⟨k.errors.1.trans h.errors.1, k.errors.2.1.trans h.errors.2.1, k.errors.2.2.trans h.errors.2.2⟩, i ++ j, ?_, ?_, ?_⟩
  · rw [k1, h1, List.append_assoc]
  · rw [k2, h2]; simp [shadowAfter]
  · intro x hx
    exact (List.mem_append.1 hx).elim (h3 x) (k3 x)

theorem setVoice (v : Nat) (x : Voice) : EventFrame P s (s.setVoice v x) :=
  ⟨rfl, rfl, rfl, rfl, ⟨rfl, rfl, rfl⟩, [], by simp, rfl, by simp⟩

theorem setChan (c : BitVec 4) (k : Chan) : EventFrame P s (s.setChan c k) :=
  ⟨rfl, rfl, rfl, rfl, ⟨rfl, rfl, rfl⟩, [], by simp, rfl, by simp⟩

theorem setActive (c : BitVec 4) (l : List Nat) : EventFrame P s (s.setActive c l) :=
  ⟨rfl, rfl, rfl, rfl, ⟨rfl, rfl, rfl⟩, [], by simp, rfl, by simp⟩

theorem setFree (l : List Nat) : EventFrame P s (s.setFree l) :=
  ⟨rfl, rfl, rfl, rfl, ⟨rfl, rfl, rfl⟩, [], by simp, rfl, by simp⟩

theorem stateReset : EventFrame P s s.stateReset :=
  ⟨rfl, rfl, rfl, rfl, ⟨rfl, rfl, rfl⟩, [], by simp, rfl, by simp⟩

theorem emitAll {l : List OutItem} (h : ∀ x, x ∈ l → P x) : EventFrame P s (s.emitAll l) :=
  ⟨rfl, rfl, rfl, rfl, ⟨rfl, rfl, rfl⟩, l, rfl, rfl, h⟩

/-- A loop of operations that each have the frame has it. -/
theorem foldl {g : State → Nat → State} (hg : ∀ s v, EventFrame P s (g s v)) :
    ∀ (l : List Nat) (s : State), EventFrame P s (l.foldl g s)
  | [], s => refl s
  | v :: l, s => (hg s v).trans (foldl hg l (g s v))

theorem bindVoice (v : Nat) (ch : BitVec 4) (key vel : BitVec 7) : EventFrame P s (s.bindVoice v ch key vel) :=
  (setVoice s _ _).trans (setActive _ _ _)

theorem released (v : Nat) : EventFrame P s (s.released v) :=
  ((setVoice s _ _).trans (setActive _ _ _)).trans (setFree _ _)

/-- The gates let an event's effect through or leave the state. -/
theorem gated {b : Bool} {f : State → State} (h : EventFrame P s (f s)) : EventFrame P s (gated b f s) := by
  rcases gated_cases s b f with e | ⟨-, -, e⟩ <;> rw [e]
  · exact refl s
  · exact h

end EventFrame

end Sys2Proof.Machine
end

