-- ==== Sys2Proof/Laws/Memory.lean ====
section
/-! SUPPORT. What the memory operations do: a write keeps the canonical form, a read after a write to the same address
gives the value written, and a write leaves every other address alone. -/

namespace Sys2Proof.Machine

open Sys2Proof

namespace Memory

variable {u : Option Byte}

theorem wfFrom_mono {lo hi : Nat} (h : lo ≤ hi) : ∀ {m : Memory}, wfFrom u hi m = true → wfFrom u lo m = true
  | [], _ => rfl
  | c :: m, hm => by
    simp only [wfFrom, Bool.and_eq_true, decide_eq_true_eq] at hm ⊢
    exact ⟨⟨by omega, hm.1.2⟩, hm.2⟩

theorem wfFrom_consCell {lo a : Nat} {v : Byte} {m : Memory} (ha : lo ≤ a) (hm : wfFrom u (a + 1) m = true) :
    wfFrom u lo (consCell u a v m) = true := by
  unfold consCell
  split
  · exact wfFrom_mono (by omega) hm
  · simp_all [wfFrom]

theorem wfFrom_write {a : Nat} (v : Byte) :
    ∀ {lo : Nat} {m : Memory}, lo ≤ a → wfFrom u lo m = true → wfFrom u lo (write u m a v) = true
  | _, [], ha, _ => wfFrom_consCell ha rfl
  | lo, c :: m, ha, hm => by
    have hm' := hm
    simp only [wfFrom, Bool.and_eq_true, decide_eq_true_eq] at hm'
    unfold write
    split
    · exact wfFrom_consCell ha (by simp_all [wfFrom])
    · split
      · subst_vars; exact wfFrom_consCell ha hm'.2
      · simp only [wfFrom, Bool.and_eq_true, decide_eq_true_eq]
        exact ⟨hm'.1, wfFrom_write v (by omega) hm'.2⟩

/-- A write keeps the canonical form. -/
theorem wf_write {m : Memory} (a : Nat) (v : Byte) (hm : wf u m = true) : wf u (write u m a v) = true :=
  wfFrom_write v (Nat.zero_le a) hm

@[simp] theorem below_cons (b : Nat) (c : Host.Cell) (m : Memory) :
    below b (c :: m) = (decide (c.1 < b) && below b m) := rfl

theorem below_consCell {b a : Nat} {v : Byte} {m : Memory} (ha : a < b) (hm : below b m = true) :
    below b (consCell u a v m) = true := by
  unfold consCell
  split
  · exact hm
  · rw [below_cons, hm]; simpa using ha

/-- A write below the bound keeps every address below the bound. -/
theorem below_write {b a : Nat} (v : Byte) (ha : a < b) :
    ∀ {m : Memory}, below b m = true → below b (write u m a v) = true
  | [], _ => below_consCell ha rfl
  | c :: m, hm => by
    have hc : c.1 < b ∧ below b m = true := by rwa [below_cons, Bool.and_eq_true, decide_eq_true_eq] at hm
    unfold write
    split
    · exact below_consCell ha hm
    · split
      · exact below_consCell ha hc.2
      · rw [below_cons, below_write v ha hc.2]; simpa using hc.1

theorem read_of_wfFrom_lt {a : Nat} : ∀ {lo : Nat} {m : Memory}, a < lo → wfFrom u lo m = true → read u m a = u
  | _, [], _, _ => rfl
  | lo, c :: m, ha, hm => by
    simp only [wfFrom, Bool.and_eq_true, decide_eq_true_eq] at hm
    rw [read, if_neg (by omega)]
    exact read_of_wfFrom_lt (by omega) hm.2

theorem read_consCell_self {a : Nat} {v : Byte} {m : Memory} (h : u = some v → read u m a = u) :
    read u (consCell u a v m) a = some v := by
  unfold consCell
  split
  · next hu => rw [h hu, hu]
  · simp [read]

theorem read_consCell_of_ne {a b : Nat} {v : Byte} {m : Memory} (h : b ≠ a) :
    read u (consCell u a v m) b = read u m b := by
  unfold consCell
  split
  · rfl
  · simp [read, h]

/-- Reading the address just written gives the value written. -/
theorem read_write_self {a : Nat} (v : Byte) :
    ∀ {lo : Nat} {m : Memory}, wfFrom u lo m = true → read u (write u m a v) a = some v
  | _, [], _ => read_consCell_self fun _ => rfl
  | lo, c :: m, hm => by
    have hm' := hm
    simp only [wfFrom, Bool.and_eq_true, decide_eq_true_eq] at hm'
    unfold write
    split
    · next hlt =>
      refine read_consCell_self fun _ => read_of_wfFrom_lt (lo := c.1) hlt ?_
      simp_all [wfFrom]
    · split
      · next _ heq =>
        subst heq
        exact read_consCell_self fun _ => read_of_wfFrom_lt (Nat.lt_succ_self _) hm'.2
      · next _ hne =>
        rw [read, if_neg hne]
        exact read_write_self v hm'.2

/-- Where no byte value is what an unlisted address reads as, this needs no canonical form. -/
theorem read_write_self_none {a : Nat} (v : Byte) : ∀ {m : Memory}, read none (write none m a v) a = some v
  | [] => by simp [write, consCell, read]
  | c :: m => by
    unfold write
    split
    · simp [consCell, read]
    · split
      · simp [consCell, read]
      · next _ hne =>
        rw [read, if_neg hne]
        exact read_write_self_none v

/-- Reading another address gives what it gave before. -/
theorem read_write_of_ne {a b : Nat} (v : Byte) (h : b ≠ a) :
    ∀ {m : Memory}, read u (write u m a v) b = read u m b
  | [] => read_consCell_of_ne h
  | c :: m => by
    unfold write
    split
    · exact read_consCell_of_ne h
    · split
      · next _ heq =>
        rw [read_consCell_of_ne h, read, if_neg (by omega)]
      · simp only [read]
        rw [read_write_of_ne v h]

end Memory

end Sys2Proof.Machine
end

