-- ==== Sys2Proof/Laws/PerInstr.lean ====
section
/-! SUPPORT. The statement proved of every constructor: its word has the match bits of its row of
spec/opcode_table.json under the row's mask. -/

open Sys2Proof

/-- The `match` column of the constructor's row (30_encoding.md R108). -/
def Sys2Proof.Laws.OpcodeNibble.tableMatch : Instr → Word
  | .nop _ => 0x00000000
  | .cfg _ _ _ => 0x10000000
  | .tbwr _ _ _ => 0x20000000
  | .reserved3 _ => 0x30000000
  | .reserved4 _ => 0x40000000
  | .reserved5 _ => 0x50000000
  | .reserved6 _ => 0x60000000
  | .reserved7 _ => 0x70000000
  | .noteoff _ _ _ _ => 0x80000000
  | .noteon _ _ _ _ => 0x90000000
  | .reservedA _ => 0xA0000000
  | .ctrl _ _ _ _ => 0xB0000000
  | .prog _ _ _ => 0xC0000000
  | .reservedD _ => 0xD0000000
  | .bend _ _ _ _ => 0xE0000000
  | .reset _ => 0xF0000000

/-- The word of `i` under the mask `0xF0000000` is the match of its row. -/
def Sys2Proof.Laws.OpcodeNibble.Statement (i : Instr) : Prop :=
  encode i &&& 0xF0000000 = Sys2Proof.Laws.OpcodeNibble.tableMatch i

theorem Sys2Proof.Laws.OpcodeNibble.mask_formatZ (op : BitVec 4) (z : BitVec 28) :
    formatZ op z &&& 0xF0000000 = op ++ 0#28 := by
  apply BitVec.eq_of_getLsbD_eq
  intro i hi
  simp only [BitVec.getLsbD_and, formatZ, BitVec.getLsbD_append]
  interval_cases i <;> simp

theorem Sys2Proof.Laws.OpcodeNibble.mask_formatC (op ch : BitVec 4) (a : BitVec 8) (z : BitVec 16) :
    formatC op ch a z &&& 0xF0000000 = op ++ 0#28 := by
  apply BitVec.eq_of_getLsbD_eq
  intro i hi
  simp only [BitVec.getLsbD_and, formatC, BitVec.getLsbD_append]
  interval_cases i <;> simp

theorem Sys2Proof.Laws.OpcodeNibble.mask_formatT (op : BitVec 4) (ta : BitVec 12) (b z : BitVec 8) :
    formatT op ta b z &&& 0xF0000000 = op ++ 0#28 := by
  apply BitVec.eq_of_getLsbD_eq
  intro i hi
  simp only [BitVec.getLsbD_and, formatT, BitVec.getLsbD_append]
  interval_cases i <;> simp

theorem Sys2Proof.Laws.OpcodeNibble.mask_formatE (op ch : BitVec 4) (a b z : BitVec 8) :
    formatE op ch a b z &&& 0xF0000000 = op ++ 0#28 := by
  apply BitVec.eq_of_getLsbD_eq
  intro i hi
  simp only [BitVec.getLsbD_and, formatE, BitVec.getLsbD_append]
  interval_cases i <;> simp

theorem Sys2Proof.Laws.OpcodeNibble.nop (z : BitVec 28) :
    Sys2Proof.Laws.OpcodeNibble.Statement (.nop z) :=
  Sys2Proof.Laws.OpcodeNibble.mask_formatZ 0x0 z

theorem Sys2Proof.Laws.OpcodeNibble.cfg (idx : BitVec 4) (val : BitVec 8) (z : BitVec 16) :
    Sys2Proof.Laws.OpcodeNibble.Statement (.cfg idx val z) :=
  Sys2Proof.Laws.OpcodeNibble.mask_formatC 0x1 idx val z

theorem Sys2Proof.Laws.OpcodeNibble.tbwr (addr : BitVec 12) (data z : BitVec 8) :
    Sys2Proof.Laws.OpcodeNibble.Statement (.tbwr addr data z) :=
  Sys2Proof.Laws.OpcodeNibble.mask_formatT 0x2 addr data z

theorem Sys2Proof.Laws.OpcodeNibble.reserved3 (z : BitVec 28) :
    Sys2Proof.Laws.OpcodeNibble.Statement (.reserved3 z) :=
  Sys2Proof.Laws.OpcodeNibble.mask_formatZ 0x3 z

theorem Sys2Proof.Laws.OpcodeNibble.reserved4 (z : BitVec 28) :
    Sys2Proof.Laws.OpcodeNibble.Statement (.reserved4 z) :=
  Sys2Proof.Laws.OpcodeNibble.mask_formatZ 0x4 z

theorem Sys2Proof.Laws.OpcodeNibble.reserved5 (z : BitVec 28) :
    Sys2Proof.Laws.OpcodeNibble.Statement (.reserved5 z) :=
  Sys2Proof.Laws.OpcodeNibble.mask_formatZ 0x5 z

theorem Sys2Proof.Laws.OpcodeNibble.reserved6 (z : BitVec 28) :
    Sys2Proof.Laws.OpcodeNibble.Statement (.reserved6 z) :=
  Sys2Proof.Laws.OpcodeNibble.mask_formatZ 0x6 z

theorem Sys2Proof.Laws.OpcodeNibble.reserved7 (z : BitVec 28) :
    Sys2Proof.Laws.OpcodeNibble.Statement (.reserved7 z) :=
  Sys2Proof.Laws.OpcodeNibble.mask_formatZ 0x7 z

theorem Sys2Proof.Laws.OpcodeNibble.noteoff (ch : BitVec 4) (key vel z : BitVec 8) :
    Sys2Proof.Laws.OpcodeNibble.Statement (.noteoff ch key vel z) :=
  Sys2Proof.Laws.OpcodeNibble.mask_formatE 0x8 ch key vel z

theorem Sys2Proof.Laws.OpcodeNibble.noteon (ch : BitVec 4) (key vel z : BitVec 8) :
    Sys2Proof.Laws.OpcodeNibble.Statement (.noteon ch key vel z) :=
  Sys2Proof.Laws.OpcodeNibble.mask_formatE 0x9 ch key vel z

theorem Sys2Proof.Laws.OpcodeNibble.reservedA (z : BitVec 28) :
    Sys2Proof.Laws.OpcodeNibble.Statement (.reservedA z) :=
  Sys2Proof.Laws.OpcodeNibble.mask_formatZ 0xA z

theorem Sys2Proof.Laws.OpcodeNibble.ctrl (ch : BitVec 4) (ctl val z : BitVec 8) :
    Sys2Proof.Laws.OpcodeNibble.Statement (.ctrl ch ctl val z) :=
  Sys2Proof.Laws.OpcodeNibble.mask_formatE 0xB ch ctl val z

theorem Sys2Proof.Laws.OpcodeNibble.prog (ch : BitVec 4) (prog : BitVec 8) (z : BitVec 16) :
    Sys2Proof.Laws.OpcodeNibble.Statement (.prog ch prog z) :=
  Sys2Proof.Laws.OpcodeNibble.mask_formatC 0xC ch prog z

theorem Sys2Proof.Laws.OpcodeNibble.reservedD (z : BitVec 28) :
    Sys2Proof.Laws.OpcodeNibble.Statement (.reservedD z) :=
  Sys2Proof.Laws.OpcodeNibble.mask_formatZ 0xD z

theorem Sys2Proof.Laws.OpcodeNibble.bend (ch : BitVec 4) (lsb msb z : BitVec 8) :
    Sys2Proof.Laws.OpcodeNibble.Statement (.bend ch lsb msb z) :=
  Sys2Proof.Laws.OpcodeNibble.mask_formatE 0xE ch lsb msb z

theorem Sys2Proof.Laws.OpcodeNibble.reset (z : BitVec 28) :
    Sys2Proof.Laws.OpcodeNibble.Statement (.reset z) :=
  Sys2Proof.Laws.OpcodeNibble.mask_formatZ 0xF z
end

