-- ==== Sys2Proof/Laws/Pool.lean ====
section
/-! SUPPORT. What the pool's operations keep of `Consistent`: a reset makes it, emitting and channel writes do not touch
it, and a rewrite of pitches, a release and a binding keep it. -/

namespace Sys2Proof.Machine

open Sys2Proof

variable {s : State}

/-- A state reset on a legal configuration makes a consistent machine (70_reset_and_hazards.md R354). -/
theorem Consistent.of_stateReset (s : State) (h : CfgLegal s.hw s.cfg) : Consistent s.stateReset := by
  have hv : ∀ v, v < s.stateReset.hw.nvMax →
      s.stateReset.voice v = Voice.fresh (categoryAt s.hw s.cfg v) (reservedAt s.hw s.cfg v) :=
    fun v h => s.stateReset_voice h
  have hf : ∀ v, v ∈ s.stateReset.free ↔ v < s.cfg.nv s.hw ∧ reservedAt s.hw s.cfg v = false := by
    simp [State.stateReset, freshFree]
  refine ⟨h, ⟨by simp [State.stateReset, freshVoices], fun v hn => ?_⟩, ⟨?_, fun c => by simp, fun v hm => ?_,
    fun v h1 h2 => ?_⟩, fun c v hm => by simp at hm, fun v hn _ => ?_, fun c _ => by simp⟩
  · rw [hv v hn]; exact ⟨rfl, rfl, Nat.le_refl 256⟩
  · exact List.Nodup.filter _ List.nodup_range
  · have := (hf v).1 hm
    exact ⟨this.1, by rw [hv v (h.lt_nvMax this.1)]; exact this.2, by simp⟩
  · rw [hv v (h.lt_nvMax h1)] at h2
    exact .inl ((hf v).2 ⟨h1, h2⟩)
  · rw [hv v hn]; exact ⟨rfl, rfl⟩

theorem Consistent.emitAll (h : Consistent s) (l : List OutItem) : Consistent (s.emitAll l) := h

theorem Consistent.setChan (h : Consistent s) (c : BitVec 4) (k : Chan) : Consistent (s.setChan c k) := by
  simpa [Consistent, TableOk, ListsOk, ActiveOk, IdleOk, MaxchanOk] using h

/-- New last pitches for any voices (44_register_mapper.md R266). -/
theorem Consistent.pitches (h : Consistent s) (vs : List Voice) (hl : vs.length = s.voices.length)
    (hv : ∀ w, w < s.voices.length →
      ∃ p, ({ s with voices := vs } : State).voice w = { s.voice w with pitch := p }) :
    Consistent { s with voices := vs } := by
  have hv' : ∀ w, ∃ p, ({ s with voices := vs } : State).voice w = { s.voice w with pitch := p } := by
    intro w
    by_cases hw : w < s.voices.length
    · exact hv w hw
    · refine ⟨(s.voice w).pitch, ?_⟩
      simp only [State.voice]
      rw [List.getD_eq_default _ _ (by omega), List.getD_eq_default _ _ (by omega)]
  set t : State := { s with voices := vs }
  have e1 : ∀ w, (t.voice w).owner = (s.voice w).owner := fun w => by obtain ⟨p, h⟩ := hv' w; rw [h]
  have e2 : ∀ w, (t.voice w).on = (s.voice w).on := fun w => by obtain ⟨p, h⟩ := hv' w; rw [h]
  have e3 : ∀ w, (t.voice w).cat = (s.voice w).cat := fun w => by obtain ⟨p, h⟩ := hv' w; rw [h]
  have e4 : ∀ w, (t.voice w).reserved = (s.voice w).reserved := fun w => by obtain ⟨p, h⟩ := hv' w; rw [h]
  have e5 : ∀ w, (t.voice w).timbre = (s.voice w).timbre := fun w => by obtain ⟨p, h⟩ := hv' w; rw [h]
  have e6 : ∀ w, (t.voice w).vel = (s.voice w).vel := fun w => by obtain ⟨p, h⟩ := hv' w; rw [h]
  have e7 : ∀ w, (t.voice w).chanIndex = (s.voice w).chanIndex := fun w => by unfold Voice.chanIndex; rw [e1]
  obtain ⟨a, b, c, d, e, f⟩ := h
  refine ⟨a, ⟨by rw [← b.1, ← hl], fun v hn => ?_⟩, ⟨c.1, c.2.1, fun v hm => ?_, fun v h1 h2 => ?_⟩, fun c v hm => ?_,
    fun v h1 h2 => ?_, f⟩
  · rw [e3, e4, e5]; exact b.2 v hn
  · rw [e4]; exact c.2.2.1 v hm
  · rw [e4] at h2; rw [e7]; exact c.2.2.2 v h1 h2
  · rw [e4, e2, e1, e5, e6]; exact d c v hm
  · rw [e7] at h2; rw [e2, e1]; exact e v h1 h2

/-- Members of the active lists after a release. -/
theorem Consistent.mem_activeOf_released (h : Consistent s) {v : Nat} {c : BitVec 4} (hv : v ∈ s.activeOf c)
    (d : BitVec 4) (w : Nat) : w ∈ (s.released v).activeOf d ↔ w ∈ s.activeOf d ∧ w ≠ v := by
  have hac : (s.released v).activeOf d = if d = c then (s.activeOf c).erase v else s.activeOf d := by
    simp only [State.released, h.chanIndex hv, State.setFree_activeOf, State.activeOf_setActive,
      State.setVoice_activeOf]
  rw [hac]
  split
  · next hd => subst hd; rw [(h.2.2.1.2.1 _).mem_erase_iff]; tauto
  · next hd =>
    refine ⟨fun hh => ⟨hh, ?_⟩, fun hh => hh.1⟩
    rintro rfl
    exact hd ((h.chanIndex hh).symm.trans (h.chanIndex hv))

/-- A release keeps consistency (40_voice_pool.md R134). -/
theorem Consistent.released (h : Consistent s) {v : Nat} {c : BitVec 4} (hv : v ∈ s.activeOf c) :
    Consistent (s.released v) := by
  have hvo := s.released_voice (h.lt_voices hv)
  have hmem := h.mem_activeOf_released hv
  have hfr : (s.released v).free = s.free ++ [v] := rfl
  obtain ⟨a, b, ⟨l1, l2, l3, l4⟩, d, e, f⟩ := h
  have dv := d c v hv
  have hsub : ∀ x, ((s.released v).activeOf x).Nodup := fun x => by
    simp only [State.released, State.setFree_activeOf, State.activeOf_setActive, State.setVoice_activeOf]
    split
    · exact (l2 _).erase _
    · exact l2 x
  refine ⟨a, ⟨by simpa [State.released] using b.1, fun w hn => ?_⟩, ⟨?_, hsub, fun w hw => ?_, fun w h1 h2 => ?_⟩,
    fun x w hw => ?_, fun w h1 h2 => ?_, fun x hx => List.eq_nil_iff_forall_not_mem.2 fun w hw => ?_⟩
  · rw [hvo]
    split
    · next hh => subst hh; exact b.2 w hn
    · exact b.2 w hn
  · rw [hfr, List.nodup_append]
    refine ⟨l1, by simp, fun x hx y hy => ?_⟩
    rw [List.mem_singleton] at hy
    subst hy
    rintro rfl
    exact (l3 _ hx).2.2 c hv
  · rw [hfr, List.mem_append, List.mem_singleton] at hw
    rw [hvo]
    rcases hw with hw | rfl
    · have := l3 w hw
      refine ⟨this.1, ?_, fun x hx => this.2.2 x ((hmem _ _).1 hx).1⟩
      split
      · next hh => subst hh; exact this.2.1
      · exact this.2.1
    · exact ⟨dv.1, by rw [if_pos rfl]; exact dv.2.1, fun x hx => ((hmem _ _).1 hx).2 rfl⟩
  · rw [hfr, List.mem_append, List.mem_singleton]
    by_cases hh : w = v
    · exact .inl (.inr hh)
    · rw [hvo, if_neg hh] at h2 ⊢
      exact (l4 w h1 h2).imp .inl fun h => (hmem _ _).2 ⟨h, hh⟩
  · rw [hmem] at hw
    rw [hvo, if_neg hw.2]
    exact d x w hw.1
  · rw [hvo] at h2 ⊢
    by_cases hh : w = v
    · rw [if_pos hh]; exact ⟨rfl, rfl⟩
    · rw [if_neg hh] at h2 ⊢
      exact e w h1 fun h3 => h2 ((hmem _ _).2 ⟨h3, hh⟩)
  · have := ((hmem x w).1 hw).1
    rw [f x hx] at this
    simp at this

/-- Binding the head of `FREE` keeps consistency: `x` is the voice as the note start leaves it
(41_event_commands.md R151). -/
theorem Consistent.bound (h : Consistent s) {v : Nat} {rest : List Nat} (hf : s.free = v :: rest) {ch : BitVec 4}
    (hm : ¬ s.cfg.maxchan < ch) {x : Voice} (howner : x.owner = ch.setWidth 5) (hon : x.on = true) (hvel : x.vel ≠ 0)
    (htimbre : x.timbre.toNat < 256) (hcat : x.cat = (s.voice v).cat) (hres : x.reserved = (s.voice v).reserved) :
    Consistent (((s.setFree rest).setVoice v x).setActive ch (s.activeOf ch ++ [v])) := by
  obtain ⟨a, b, ⟨l1, l2, l3, l4⟩, d, e, f⟩ := h
  have hvf := l3 v (by rw [hf]; simp)
  have hl : v < s.voices.length := by rw [b.1]; exact a.lt_nvMax hvf.1
  set t := ((s.setFree rest).setVoice v x).setActive ch (s.activeOf ch ++ [v]) with ht
  have hvo : ∀ w, t.voice w = if w = v then x else s.voice w := by
    intro w
    split
    · next hh => subst hh; rw [ht, State.setActive_voice, State.voice_setVoice_self (s.setFree rest) _ hl]
    · next hh => rw [ht, State.setActive_voice, State.voice_setVoice_of_ne _ _ hh]; rfl
  have hac : ∀ d, t.activeOf d = if d = ch then s.activeOf ch ++ [v] else s.activeOf d := fun d => by
    rw [ht, State.activeOf_setActive]; rfl
  have hmem : ∀ d w, w ∈ t.activeOf d ↔ w ∈ s.activeOf d ∨ (d = ch ∧ w = v) := by
    intro d w
    rw [hac]
    split
    · next hd => subst hd; simp
    · next hd => simp [hd]
  have hci : x.chanIndex = ch := by rw [Voice.chanIndex, howner]; ext i hi; simp
  rw [hf, List.nodup_cons] at l1
  have hfr : t.free = rest := rfl
  refine ⟨a, ⟨by simpa [ht] using b.1, fun w hn => ?_⟩, ⟨l1.2, fun y => ?_, fun w hw => ?_, fun w h1 h2 => ?_⟩,
    fun y w hw => ?_, fun w h1 h2 => ?_, fun y hy => ?_⟩
  · rw [hvo]
    split
    · next hh => subst hh; rw [hcat, hres]; exact ⟨(b.2 w hn).1, (b.2 w hn).2.1, by omega⟩
    · exact b.2 w hn
  · rw [hac]
    split
    · rw [List.nodup_append]
      refine ⟨l2 ch, by simp, fun y hy z hz => ?_⟩
      rw [List.mem_singleton] at hz
      subst hz
      rintro rfl
      exact hvf.2.2 ch hy
    · exact l2 y
  · rw [hfr] at hw
    have hne : w ≠ v := by rintro rfl; exact l1.1 hw
    have := l3 w (by rw [hf]; simp [hw])
    rw [hvo, if_neg hne]
    exact ⟨this.1, this.2.1, fun y hy => ((hmem _ _).1 hy).elim (this.2.2 y) fun h => hne h.2⟩
  · rw [hvo] at h2 ⊢
    by_cases hh : w = v
    · rw [if_pos hh, hci, hmem]; exact .inr (.inr ⟨rfl, hh⟩)
    · rw [if_neg hh] at h2 ⊢
      rcases l4 w h1 h2 with h | h
      · rw [hf] at h
        simp [hh] at h
        exact .inl h
      · exact .inr ((hmem _ _).2 (.inl h))
  · rw [hmem] at hw
    rw [hvo]
    rcases hw with hw | ⟨rfl, rfl⟩
    · have hne : w ≠ v := by rintro rfl; exact hvf.2.2 y hw
      rw [if_neg hne]
      exact d y w hw
    · rw [if_pos rfl]
      refine ⟨hvf.1, by rw [hres]; exact hvf.2.1, hon, howner, fun hh => ?_, hvel⟩
      rw [hh] at htimbre
      exact absurd htimbre (by decide)
  · rw [hvo] at h2 ⊢
    by_cases hh : w = v
    · rw [if_pos hh, hci, hmem] at h2
      exact absurd (.inr ⟨rfl, hh⟩) h2
    · rw [if_neg hh] at h2 ⊢
      exact e w h1 fun h3 => h2 ((hmem _ _).2 (.inl h3))
  · rw [hac]
    split
    · next hh => subst hh; exact absurd hy hm
    · exact f y hy

end Sys2Proof.Machine
end

