-- ==== Sys2Proof/Tests/Slice0.lean ====
section
/-! SUPPORT. The model's own tests: the well-formedness smoke, one decode test a constructor from the spec's encoding
tables, at most two tests an instruction on one step with results from the spec's own vectors, and a witness for the
hypotheses of every statement that has some. -/

namespace Sys2Proof.Tests

open Sys2Proof Sys2Proof.Machine

/-! ### Helpers -/

/-- The records of the test bank that the tests use (95_test_vectors.md section 1): T0, then T1. -/
def bank : Memory :=
  [0x21, 0x31, 0x4F, 0x00, 0xF2, 0xF2, 0x45, 0x76, 0x00, 0x01, 0x08, 0x00, 0x00,
   0x01, 0x11, 0x8A, 0x40, 0xF1, 0xD2, 0x53, 0x74, 0x00, 0x00, 0x07, 0x0C, 0xF6].zipIdx.map fun e => (e.2, e.1)

/-- The state every vector starts from: `REF`, `CAP_CHIPTYPE = 1`, `CAP_FULLPAN = 0`, the test bank. -/
def fresh : State := { State.reset with ram := bank }

/-- A voice bound to a channel. -/
def boundVoice (owner : BitVec 5) (key vel : BitVec 7) (timbre : BitVec 9) (pitch : BitVec 13) : Voice :=
  { Voice.fresh .regular false with owner := owner, key := key, vel := vel, timbre := timbre, on := true, pitch := pitch }

/-- `fresh` after 41_event_commands.md R156: voice 0 sounds key 60, velocity 100, record 0 on channel 0. -/
def oneNote : State :=
  { fresh with
    voices := [boundVoice 0 60 100 0 0x1157, Voice.fresh .regular false]
    free := [1]
    active := (Vector.replicate 16 []).set 0 [0] }

/-- The next state, or the state itself where a step stops (none does). -/
def next (s : State) (o : Host.Outcome State Fault Refusal) : State :=
  match o with
  | .next t => t
  | _ => s

/-- The state after the command word `w`. -/
def run (s : State) (w : Nat) : State := next s (step (s.withFetchWord 32 w))

/-- The items the command word `w` emits, as kind, address and data. -/
def emits (s : State) (w : Nat) : List (OutKind × Nat × Nat) :=
  ((run s w).out.drop s.out.length).map fun x => (x.kind, x.addr.toNat, x.data.toNat)

/-- `REG` items, address before data. -/
def regs (l : List (Nat × Nat)) : List (OutKind × Nat × Nat) := l.map fun e => (.reg, e.1, e.2)

/-! ### Well-formedness -/

theorem test_wf_ref : (refParams true false).wf = true := by decide
theorem test_wf_ref_single : (refParams false true).wf = true := by decide
theorem test_wf_nop : (Instr.nop 1).wf = false := by decide
theorem test_wf_cfg : (Instr.cfg 0 0 1).wf = false := by decide
theorem test_wf_tbwr : (Instr.tbwr 0 0 1).wf = false := by decide
theorem test_wf_reserved :
    [Instr.reserved3 0, .reserved4 0, .reserved5 0, .reserved6 0, .reserved7 0, .reservedA 0, .reservedD 0].all
      (fun i => !i.wf) = true := by decide
theorem test_wf_events :
    [Instr.noteoff 0 0 0 1, .noteon 0 0 0 1, .ctrl 0 0 0 1, .prog 0 0 1, .bend 0 0 0 1].all (fun i => !i.wf) = true := by
  decide
theorem test_wf_reset : (Instr.reset 1).wf = false := by decide
theorem test_wf_written :
    [Instr.nop 0, .cfg 15 255 0, .tbwr 4095 255 0, .noteoff 15 255 255 0, .noteon 0 0 0 0, .ctrl 0 0 0 0, .prog 0 0 0,
     .bend 0 0 0 0, .reset 0].all Instr.wf = true := by decide
theorem test_wf_spc : { refParams true false with spc := 0 }.sizesOk = false := by decide
theorem test_wf_slots : { refParams true false with spc := 43 }.sizesOk = false := by decide
theorem test_wf_fine : { refParams true false with fine := 0 }.sizesOk = false := by decide
theorem test_wf_nfreq : { refParams true false with freqModels := [] }.modelsOk = false := by decide
theorem test_wf_nvol : { refParams true false with volModels := [] }.modelsOk = false := by decide
theorem test_wf_ref_fine : { refParams true false with fine := 16 }.modelsOk = false := by decide
theorem test_wf_opmap : { refParams true false with opmapStd := [] }.mapsOk = false := by decide
theorem test_wf_chmap : { refParams true false with chmapPan := [none] }.mapsOk = false := by decide
theorem test_wf_fourop_length : { refParams true false with fouropFirst := [0] }.fouropOk = false := by decide
theorem test_wf_fourop_chip : { refParams true false with fouropDelta := 23 }.fouropOk = false := by decide
theorem test_wf_banks :
    { refParams true false with banks := { refBanks with wave := 0x1F0 } }.banksOk = false := by decide
theorem test_wf_fbconn :
    { refParams true false with banks := { refBanks with fbconn := 0x1F0 } }.banksOk = false := by decide

/-! ### Decoding: one word a constructor, written out from 30_encoding.md R101 to R108 -/

theorem test_decode_nop : decode 0b0000_1111111111111111111111111111 = .nop 0xFFFFFFF := by decide
theorem test_decode_cfg : decode 0b0001_0110_00000111_0000000000000000 = .cfg 6 7 0 := by decide
theorem test_decode_tbwr : decode 0b0010_110011111111_10101010_00000001 = .tbwr 3327 0xAA 1 := by decide
theorem test_decode_reserved3 : decode 0b0011_0000000000000000000000000001 = .reserved3 1 := by decide
theorem test_decode_reserved4 : decode 0b0100_0000000000000000000000000010 = .reserved4 2 := by decide
theorem test_decode_reserved5 : decode 0b0101_0000000000000000000000000011 = .reserved5 3 := by decide
theorem test_decode_reserved6 : decode 0b0110_1000000000000000000000000000 = .reserved6 0x8000000 := by decide
theorem test_decode_reserved7 : decode 0b0111_0000000000000000000000000000 = .reserved7 0 := by decide
theorem test_decode_noteoff : decode 0b1000_0001_00111100_01000000_00000000 = .noteoff 1 60 64 0 := by decide
theorem test_decode_noteon : decode 0b1001_1001_00100100_01100100_00000000 = .noteon 9 36 100 0 := by decide
theorem test_decode_reservedA : decode 0b1010_0000000000000000000000000000 = .reservedA 0 := by decide
theorem test_decode_ctrl : decode 0b1011_0011_01111001_00000000_11111111 = .ctrl 3 121 0 255 := by decide
theorem test_decode_prog : decode 0b1100_0001_00000001_0000000100000000 = .prog 1 1 256 := by decide
theorem test_decode_reservedD : decode 0b1101_0000000000000000000000000000 = .reservedD 0 := by decide
theorem test_decode_bend : decode 0b1110_0000_00000001_01010000_00000000 = .bend 0 1 80 0 := by decide
theorem test_decode_reset : decode 0b1111_0000000000000000000000000000 = .reset 0 := by decide
theorem test_decode_table_word : decodeTableWord 32 0x903C6400 = some (.noteon 0 60 100 0) := by decide
theorem test_asm_bend14 : (Asm.bend14 0 10240).wf = true ∧ encode (Asm.bend14 0 10240) = 0xE0005000 := by decide
theorem test_asm_timbre :
    (Asm.timbre 0 [0x21, 0x31]).map encode = [0x20002100, 0x20013100] := by decide

/-! ### Lookups: the spec's vector tables -/

/-- 42_frequency_model.md R209: octave 0, the last exact octave, and the two saturating octaves. -/
theorem test_ref_exp :
    [(0, 31), (12, 0), (59, 31), (107, 31), (108, 0), (114, 0), (127, 31)].map (fun e => (refExp e.1 e.2).toNat) =
      [0 * 1024 + 181, 0 * 1024 + 343, 3 * 1024 + 685, 7 * 1024 + 685, 7 * 1024 + 686, 7 * 1024 + 970,
       7 * 1024 + 1023] := by decide
theorem test_ref_semi : (refSemi 60 16).toNat = 4 * 1024 + 343 := by decide

/-- 43_volume_model.md R227, rows 1, 7, 8, 9 and 12, model 0, then row 8, model 1. -/
def volRow (velp vol expr master bright : BitVec 7) (tlMod tlCar : BitVec 6) (conn additive : Bool) : VolumeInput :=
  ⟨velp, vol, expr, master, bright, tlMod, tlCar, conn, additive, .regular⟩

theorem test_ref_lin :
    [volRow 100 100 127 127 127 15 0 false false, volRow 127 127 127 127 64 15 0 false false,
     volRow 90 100 127 127 127 10 0 true false, volRow 90 100 127 127 127 10 0 false true,
     volRow 64 64 64 64 127 0 0 true false].map (fun x => ((refLin x).mod6.toNat, (refLin x).car6.toNat)) =
      [(15, 25), (39, 0), (34, 29), (34, 29), (60, 60)] := by decide
theorem test_ref_car :
    refCar (volRow 90 100 127 127 127 10 0 true false) = ⟨10, 29⟩ := by decide

/-- 41_event_commands.md R186, the rows 8191, 16383 and 0 at the widest range, and 10000 at 250. -/
theorem test_bend_calc :
    [((8191 : BitVec 14), (2 : BitVec 7), (0 : BitVec 7)), (16383, 127, 127), (0, 127, 127), (10000, 2, 50)].map
      (fun e =>
        let k := bendCalc 32 { Chan.default with bend := e.1, bendSemis := e.2.1, bendCents := e.2.2 }
        (k.keyOffset.toInt, k.keyDetune)) = [(-1, 31), (128, 8), (-129, 23), (0, 17)] := by decide

/-- 44_register_mapper.md R245, the row (1, 2, 7, 0): chip 1 has one pair, 23 and 26. -/
theorem test_recategorise :
    let c : Cfg := { Cfg.pinReset with nchips := 2, n4op := 7 }
    [22, 23, 24, 26, 27, 41, 46].map (fun v => (categoryAt (refParams true false) c v,
      reservedAt (refParams true false) c v)) =
      [(.rhythmSlave, true), (.fourOpFirst, true), (.regular, false), (.fourOpSecond, true), (.regular, false),
       (.rhythmSlave, true), (.regular, true)] := by decide

/-! ### One step a test -/

/-- R290. -/
theorem test_nop : run oneNote 0x0FFFFFFF = oneNote := by decide
/-- 30_encoding.md R109. -/
theorem test_reserved3 : run oneNote 0x30000001 = oneNote := by decide
theorem test_reserved4 : run oneNote 0x40010200 = oneNote := by decide
theorem test_reserved5 : run oneNote 0x5FFFFFFF = oneNote := by decide
theorem test_reserved6 : run oneNote 0x60000000 = oneNote := by decide
theorem test_reserved7 : run oneNote 0x70000000 = oneNote := by decide
theorem test_reservedA : run oneNote 0xA0000000 = oneNote := by decide
theorem test_reservedD : run oneNote 0xD0000000 = oneNote := by decide
/-- 45_backend_and_system_commands.md R294. -/
theorem test_cfg_valid :
    emits fresh 0x15020000 =
      (.rst, 0, 0) :: regs [(0x105, 1), (0x104, 0), (0xBD, 0), (0x305, 1), (0x304, 0), (0x2BD, 0)] := by decide
theorem test_cfg_trap :
    run fresh 0x15070000 = { fresh with cfgerr := true, errcode := 3, errcmd := 0x15070000 } := by decide
/-- R296: the last byte of the RAM, and the first address past it. -/
theorem test_tbwr : (run fresh 0x2CFFAA00).ramByte 3327 = 0xAA := by decide
theorem test_tbwr_past_end : run oneNote 0x2D00AA00 = oneNote := by decide
/-- R163. -/
theorem test_noteoff_emits : emits oneNote 0x803C0000 = regs [(0xB0, 0x11)] := by decide
theorem test_noteoff_frees : (run oneNote 0x803C0000).free = [1, 0] := by decide
/-- R156. -/
theorem test_noteon_emits :
    emits fresh 0x903C6400 =
      regs [(0x20, 0x21), (0x60, 0xF2), (0x80, 0x45), (0xE0, 0x00), (0x23, 0x31), (0x63, 0xF2), (0x83, 0x76),
        (0xE3, 0x01), (0xC0, 0x38), (0x40, 0x4F), (0x43, 0x19), (0xA0, 0x57), (0xB0, 0x31), (0xC0, 0x38)] := by decide
theorem test_noteon_binds : (run fresh 0x903C6400).voice 0 = oneNote.voice 0 := by decide
/-- R166: velocity 100 under volume 127. -/
theorem test_ctrl_volume : emits oneNote 0xB0077F00 = regs [(0x40, 0x4F), (0x43, 0x0E)] := by decide
/-- R171. -/
theorem test_ctrl_all_notes_off : emits oneNote 0xB07B0000 = regs [(0xB0, 0x11)] := by decide
/-- R182. -/
theorem test_prog : ((run oneNote 0xC1010000).chan 1).program = 1 := by decide
/-- R183: `BEND 0, 0, 0x50` on key 60. -/
theorem test_bend : emits oneNote 0xE0005000 = regs [(0xA0, 0x61), (0xB0, 0x31)] := by decide
/-- R298. -/
theorem test_reset : emits oneNote 0xF0000000 = (.rst, 0, 0) :: regs [(0x105, 1), (0x104, 0), (0xBD, 0)] := by decide
/-- R269: `STEREO = 1`, `CAP_FULLPAN = 1`, pan 5. -/
theorem test_pan_item :
    emits { oneNote with hw := refParams true true, cfg := { Cfg.pinReset with stereo := true } } 0xB00A0500 =
      [(.reg, 0xC0, 0x38), (.pan, 0xC0, 5)] := by decide
/-- R114: the bits of `REG 00B0=31`. -/
theorem test_item_bits : (OutItem.reg 0x00B0 0x31).bits = 0x00B031 := by decide
/-- R350: the `rst` pin. -/
theorem test_rst_pulse :
    (next oneNote (step { oneNote with cfgerr := true, inputs := [.rstPulse] })).status =
      ⟨true, false, false, false, 0, 0⟩ := by decide

/-! ### Witnesses: for each statement with hypotheses, a state and operands that meet them -/

/-- A small build: two slots a chip, one model of each kind, everything else as `REF` has it. -/
def small : Params :=
  { refParams true false with
    spc := 2, freqModels := [.given 0], volModels := [.given 0]
    opmapStd := refOpmapStd.take 2, opmapInv := refOpmapInv.take 2
    chmapPitch := refChmapPitch.take 2, chmapPan := refChmapPan.take 2
    fouropFirst := (List.range 36).map fun k => k / 6 * 2, fouropDelta := 1 }

/-- Both live voices sound: voice 0 key 36 on channel 9, voice 1 key 60 on channel 0. -/
def busy : State :=
  { State.resetOf small with
    voices := [boundVoice 9 36 100 164 0x157, boundVoice 0 60 100 0 0x1157] ++
      List.replicate 10 (Voice.fresh .regular true)
    free := []
    active := ((Vector.replicate 16 []).set 0 [1]).set 9 [0] }

/-- Both live voices sound on channel 0, keys 60 and 64; no percussion note does. -/
def twoNotes : State :=
  { State.resetOf small with
    voices := [boundVoice 0 60 100 0 0x1157, boundVoice 0 64 100 0 0x11B0] ++
      List.replicate 10 (Voice.fresh .regular true)
    free := []
    active := (Vector.replicate 16 []).set 0 [0, 1] }

/-- Channel 0 of `twoNotes` with the pitch-bend-range RPN staged. -/
def staged : State := twoNotes.setChan 0 { Chan.default with rpnMsb := 0, rpnLsb := 0 }

theorem witness_small_wf : small.wf = true := by decide

theorem witness_busy_consistent : Consistent busy := by
  refine ⟨by decide, by decide, ⟨by decide, by decide, by decide, by decide⟩, by decide, by decide, by decide⟩

theorem witness_twoNotes_consistent : Consistent twoNotes := by
  refine ⟨by decide, by decide, ⟨by decide, by decide, by decide, by decide⟩, by decide, by decide, by decide⟩

theorem witness_reset_consistent : Consistent State.reset :=
  Consistent.of_stateReset State.reset ⟨by decide, by decide, by decide, fun _ => rfl, by decide, by decide⟩

theorem witness_StepRunsDecodedCommand :
    ({ fresh with inputs := [.command 0x903C6400] } : State).inputs = .command 0x903C6400 :: [] ∧
    decode 0x903C6400 = .noteon 0 60 100 0 ∧
    ({ fresh with inputs := [.rstPulse] } : State).inputs = .rstPulse :: [] ∧ fresh.inputs = [] := by decide

theorem witness_PinResetValues :
    ({ busy with inputs := [.rstPulse, .command 0] } : State).inputs = .rstPulse :: [.command 0] := by decide

theorem witness_NopAndReservedDoNothing :
    (0x40010200 : Word).toNat / 2 ^ 28 ∈ [0x0, 0x3, 0x4, 0x5, 0x6, 0x7, 0xA, 0xD] ∧
    (0xDFFFFFFF : Word).toNat / 2 ^ 28 ∈ [0x0, 0x3, 0x4, 0x5, 0x6, 0x7, 0xA, 0xD] ∧
    ({ busy with inputs := [.command 0x40010200] } : State).inputs = .command 0x40010200 :: [] := by decide

theorem witness_TbwrWritesOneByte :
    3328 ≤ (3328 : BitVec 12).toNat ∧ (3327 = (3327 : BitVec 12).toNat ∧ 3327 < 3328) := by decide

/-- A cause where `cfgCause` gives one. -/
theorem is_cause {p : Params} {c : Cfg} {idx : BitVec 4} {val : BitVec 8} {k : Cause}
    (h : cfgCause p c idx val = some k) : MisconfigRow p c idx.toNat val.toNat k.code.toNat :=
  (cfgCause_iff p c idx val k.code.toNat).2 ⟨k, h, rfl⟩

/-- Two chips and seven pairs. -/
def twoChips : Cfg := { Cfg.pinReset with nchips := 2, n4op := 7 }

/-- Each cause at the boundaries of its row of 60_exceptions.md R321, the unknown register first. -/
theorem witness_InvalidCfgTakesTrap_badreg :
    MisconfigRow small twoChips 10 0 1 ∧ MisconfigRow small twoChips 15 255 1 :=
  ⟨is_cause (idx := 10) (val := 0) (k := .badreg) (by decide),
    is_cause (idx := 15) (val := 255) (k := .badreg) (by decide)⟩

theorem witness_InvalidCfgTakesTrap_value :
    MisconfigRow small twoChips 0 2 2 ∧ MisconfigRow small twoChips 8 255 2 ∧ MisconfigRow small twoChips 2 16 2 ∧
    MisconfigRow small twoChips 9 128 2 :=
  ⟨is_cause (idx := 0) (val := 2) (k := .value) (by decide), is_cause (idx := 8) (val := 255) (k := .value) (by decide),
    is_cause (idx := 2) (val := 16) (k := .value) (by decide),
    is_cause (idx := 9) (val := 128) (k := .value) (by decide)⟩

theorem witness_InvalidCfgTakesTrap_chips :
    MisconfigRow small twoChips 5 0 3 ∧ MisconfigRow small twoChips 5 7 3 ∧ MisconfigRow small twoChips 5 1 4 ∧
    MisconfigRow small twoChips 6 13 4 :=
  ⟨is_cause (idx := 5) (val := 0) (k := .chips) (by decide), is_cause (idx := 5) (val := 7) (k := .chips) (by decide),
    is_cause (idx := 5) (val := 1) (k := .fouropCount) (by decide),
    is_cause (idx := 6) (val := 13) (k := .fouropCount) (by decide)⟩

/-- The capability is asked before the count; and the first model number past the last. -/
theorem witness_InvalidCfgTakesTrap_capability :
    MisconfigRow (refParams false false) Cfg.pinReset 6 1 5 ∧
    MisconfigRow (refParams false false) Cfg.pinReset 6 255 5 ∧
    MisconfigRow small twoChips 3 1 6 ∧ MisconfigRow small twoChips 4 1 6 :=
  ⟨is_cause (idx := 6) (val := 1) (k := .fouropCap) (by decide),
    is_cause (idx := 6) (val := 255) (k := .fouropCap) (by decide),
    is_cause (idx := 3) (val := 1) (k := .model) (by decide), is_cause (idx := 4) (val := 1) (k := .model) (by decide)⟩

theorem witness_OneCausePerCfg :
    MisconfigRow (refParams false false) Cfg.pinReset 6 255 5 ∧
    MisconfigRow (refParams false false) Cfg.pinReset 6 255 5 :=
  ⟨is_cause (idx := 6) (val := 255) (k := .fouropCap) (by decide),
    is_cause (idx := 6) (val := 255) (k := .fouropCap) (by decide)⟩

/-- No cause where `cfgCause` gives none. -/
theorem no_cause {p : Params} {c : Cfg} {idx : BitVec 4} {val : BitVec 8} (h : cfgCause p c idx val = none) (code : Nat) :
    ¬ MisconfigRow p c idx.toNat val.toNat code := by
  rw [cfgCause_iff, h]
  rintro ⟨k, hk, -⟩
  cases hk

theorem witness_ValidCfgWritesRegisterAndResets :
    (∀ code, ¬ MisconfigRow fresh.hw fresh.cfg (5 : BitVec 4).toNat (6 : BitVec 8).toNat code) ∧
    (∀ code, ¬ MisconfigRow fresh.hw fresh.cfg (6 : BitVec 4).toNat (6 : BitVec 8).toNat code) ∧
    (∀ code, ¬ MisconfigRow fresh.hw fresh.cfg (2 : BitVec 4).toNat (15 : BitVec 8).toNat code) ∧
    (∀ code, ¬ MisconfigRow fresh.hw fresh.cfg (9 : BitVec 4).toNat (127 : BitVec 8).toNat code) ∧
    (∀ code, ¬ MisconfigRow fresh.hw fresh.cfg (3 : BitVec 4).toNat (1 : BitVec 8).toNat code) ∧
    (∀ code, ¬ MisconfigRow fresh.hw fresh.cfg (0 : BitVec 4).toNat (1 : BitVec 8).toNat code) :=
  ⟨no_cause (by decide), no_cause (by decide), no_cause (by decide), no_cause (by decide), no_cause (by decide),
    no_cause (by decide)⟩

theorem witness_FouropMaskBits : (7 : Nat) < 8 := by decide

theorem witness_ErrorBlocksEvents :
    ({ busy with cfgerr := true } : State).cfgerr = true ∧
    ∀ code, ¬ MisconfigRow small busy.cfg (5 : BitVec 4).toNat (1 : BitVec 8).toNat code :=
  ⟨by decide, no_cause (by decide)⟩

theorem witness_SevenBitCheck :
    (127 < (128 : BitVec 8).toNat ∨ 127 < (0 : BitVec 8).toNat) ∧
    (127 < (0 : BitVec 8).toNat ∨ 127 < (128 : BitVec 8).toNat) := by decide

/-- For `NoteOnEmitsPhasesInOrder` too: velocity 1 on the last playable channel. -/
theorem witness_NoteOnBindsHeadOfFree :
    let s := State.resetOf small
    s.cfgerr = false ∧ (127 : BitVec 8).toNat ≤ 127 ∧ 1 ≤ (1 : BitVec 8).toNat ∧ (1 : BitVec 8).toNat ≤ 127 ∧
    (15 : BitVec 4) ≤ s.cfg.maxchan ∧ s.free = 0 :: [1] ∧ 0 < s.voices.length := by decide

theorem witness_NoteOnStealsOldestPercussion :
    Consistent busy ∧ busy.cfgerr = false ∧ (0 : BitVec 8).toNat ≤ 127 ∧ 1 ≤ (127 : BitVec 8).toNat ∧
    (127 : BitVec 8).toNat ≤ 127 ∧ (9 : BitVec 4) ≤ busy.cfg.maxchan ∧ (0 : BitVec 4) ≤ busy.cfg.maxchan ∧
    busy.free = [] ∧ busy.activeOf 9 = 0 :: [] :=
  ⟨witness_busy_consistent, by decide⟩

theorem witness_NoteOnIgnoredOrDropped :
    ({ twoNotes with cfg := { Cfg.pinReset with maxchan := 0 } } : State).cfg.maxchan < 1 ∧
    ((1 : BitVec 8) ≠ 0 ∧ twoNotes.free = [] ∧ twoNotes.activeOf 9 = []) := by decide

theorem witness_NoteOnZeroVelocityIsNoteOff : Consistent busy ∧ (127 : BitVec 8).toNat ≤ 127 :=
  ⟨witness_busy_consistent, by decide⟩

theorem witness_NoteOffReleasesFirstMatch :
    Consistent twoNotes ∧ twoNotes.cfgerr = false ∧ (64 : BitVec 8).toNat ≤ 127 ∧ (0 : BitVec 8).toNat ≤ 127 ∧
    twoNotes.activeOf 0 = [0] ++ 1 :: [] ∧ (twoNotes.voice 1).key.toNat = (64 : BitVec 8).toNat ∧
    (∀ w, w ∈ [0] → (twoNotes.voice w).key.toNat ≠ (64 : BitVec 8).toNat) :=
  ⟨witness_twoNotes_consistent, by decide⟩

theorem witness_NoteOffWithoutMatchDoesNothing :
    ∀ w, w ∈ twoNotes.activeOf 0 → (twoNotes.voice w).key.toNat ≠ (61 : BitVec 8).toNat := by decide

theorem witness_VolumeControllersRewriteLevels :
    twoNotes.cfgerr = false ∧ (127 : BitVec 8).toNat ≤ 127 ∧
    ∀ ctl : BitVec 8, ctl ∈ [7, 11, 74] → ctl.toNat = 7 ∨ ctl.toNat = 11 ∨ ctl.toNat = 74 := by decide

/-- For `RpnControllersStage`, `ResetAllControllersSoftResets`, `ResetAllControllersIdempotent` too. -/
theorem witness_PanControllerRewritesPan : twoNotes.cfgerr = false ∧ (127 : BitVec 8).toNat ≤ 127 := by decide

theorem witness_DetuneControllerRewritesPitch :
    twoNotes.cfgerr = false ∧ (0 : BitVec 8).toNat ≤ 127 ∧
    (∀ w, w ∈ twoNotes.activeOf 0 → w < twoNotes.voices.length) := by decide

theorem witness_DataEntrySetsBendRange :
    staged.cfgerr = false ∧ (127 : BitVec 8).toNat ≤ 127 ∧
    ((6 : BitVec 8).toNat = 6 ∨ (6 : BitVec 8).toNat = 38) ∧ ((38 : BitVec 8).toNat = 6 ∨ (38 : BitVec 8).toNat = 38) ∧
    (staged.chan 0).rpnMsb = 0 ∧ (staged.chan 0).rpnLsb = 0 ∧
    (∀ w, w ∈ staged.activeOf 0 → w < staged.voices.length) := by decide

theorem witness_IgnoredControllers :
    ((twoNotes.chan 0).rpnMsb ≠ 0 ∨ (twoNotes.chan 0).rpnLsb ≠ 0) ∧
    (5 : BitVec 8).toNat ∉ [6, 7, 10, 11, 38, 74, 94, 100, 101, 121, 123] ∧
    (255 : BitVec 8).toNat ∉ [6, 7, 10, 11, 38, 74, 94, 100, 101, 121, 123] := by decide

theorem witness_AllNotesOffReleasesChannel :
    Consistent twoNotes ∧ twoNotes.cfgerr = false ∧ (0 : BitVec 8).toNat ≤ 127 ∧ twoNotes.activeOf 0 = [0, 1] :=
  ⟨witness_twoNotes_consistent, by decide⟩

theorem witness_ProgStoresProgram : busy.cfgerr = false ∧ (127 : BitVec 8).toNat ≤ 127 := by decide

theorem witness_BendRewritesPitch :
    twoNotes.cfgerr = false ∧ (127 : BitVec 8).toNat ≤ 127 ∧ (127 : BitVec 8).toNat ≤ 127 ∧
    (∀ w, w ∈ twoNotes.activeOf 0 → w < twoNotes.voices.length) := by decide

theorem witness_BendCalcArithmetic : 1 ≤ (1 : Nat) ∧ 1 ≤ State.reset.hw.fine := by decide

theorem witness_NotePosClamps :
    1 ≤ twoNotes.hw.fine ∧ twoNotes.hw.freqModels[twoNotes.cfg.freqsel.toNat]? = some (.given 0) ∧
    State.reset.hw.freqModels[State.reset.cfg.freqsel.toNat]? = some .refExp := by decide

theorem witness_VelocityOffsetClamps :
    twoNotes.hw.volModels[twoNotes.cfg.volsel.toNat]? = some (.given 0) ∧
    State.reset.hw.volModels[State.reset.cfg.volsel.toNat]? = some .refLin := by decide

theorem witness_RefVolumeBounds : 0 < 2 ∧ 1 < 2 := by decide

theorem witness_SinglePortMaps :
    (State.resetOf (refParams false false)).hw.capChiptype = false ∧
    (State.resetOf (refParams false false)).mapPitch 8 = some 8 := by decide

theorem witness_RefCategories :
    let c : Cfg := { Cfg.pinReset with nchips := 6, n4op := 36, rhythm := true }
    c.nchips.toNat ≤ 6 ∧ c.n4op.toNat ≤ 6 * c.nchips.toNat ∧ 5 < 6 ∧ 22 < 23 := by decide

theorem witness_RefPoolCapacity :
    let c : Cfg := { Cfg.pinReset with nchips := 6, n4op := 36 }
    c.nchips.toNat ≤ 6 ∧ c.n4op.toNat ≤ 6 * c.nchips.toNat ∧ Cfg.pinReset.nchips.toNat ≤ 6 ∧ Cfg.pinReset.n4op = 0 := by
  decide

theorem witness_RefFrequencyModels : 127 ≤ 127 ∧ 31 < 32 := by decide

/-- For `WhoWritesWhat`, `ErrorLatchHistory` and `EventsLeaveReservedVoices` too: a command that takes a step. -/
theorem witness_ShadowFollowsOutput :
    exec (.noteon 0 60 100 0) busy = .next (next busy (exec (.noteon 0 60 100 0) busy)) := rfl

theorem witness_ShadowHoldsLastWrite :
    MemoryOk fresh ∧ lastWrite 0xB0 [OutItem.rst, OutItem.reg 0xB0 0x31] = some (OutItem.reg 0xB0 0x31) ∧
    lastWrite 0xB1 [OutItem.rst, OutItem.reg 0xB0 0x31] = some OutItem.rst ∧
    lastWrite 0xB1 [OutItem.pan 0xB1 5] = none := by decide

theorem witness_PanItemsNeedFullPan :
    busy.hw.capFullpan = false ∧
    exec (.noteon 0 60 100 0) busy = .next (next busy (exec (.noteon 0 60 100 0) busy)) := ⟨by decide, rfl⟩

theorem witness_ItemsAddressLiveChips :
    busy.hw.wf = true ∧ Consistent busy ∧
    exec (.noteon 0 60 100 0) busy = .next (next busy (exec (.noteon 0 60 100 0) busy)) :=
  ⟨witness_small_wf, witness_busy_consistent, rfl⟩

theorem witness_StepKeepsConsistent :
    busy.hw.wf = true ∧ Consistent busy ∧ step busy = .next busy := ⟨witness_small_wf, witness_busy_consistent, rfl⟩

theorem witness_StepKeepsBendOffsets :
    BendOk busy ∧ step busy = .next busy := ⟨fun c => by
      have : busy.chan c = Chan.default := by simp [busy, State.chan, State.resetOf]
      rw [this]
      decide, rfl⟩

theorem witness_StepKeepsMemoryForm : MemoryOk fresh ∧ step fresh = .next fresh := ⟨by decide, rfl⟩

theorem witness_StepKeepsErrorRegisters :
    let s : State := { busy with cfgerr := true, errcode := 6, errcmd := 0x13020000 }
    ErrorOk s ∧ ErrorOk busy ∧ step s = .next s := ⟨by decide, by decide, rfl⟩

theorem witness_ResetHasInvariants : small.wf = true := witness_small_wf

theorem witness_PoolIsConserved :
    busy.hw.wf = true ∧ Consistent busy ∧ step busy = .next busy ∧ busy.cfg = busy.cfg :=
  ⟨witness_small_wf, witness_busy_consistent, rfl, rfl⟩

theorem witness_EventsLeaveReservedVoices :
    Consistent busy ∧
    exec (.noteon 0 60 100 0) busy = .next (next busy (exec (.noteon 0 60 100 0) busy)) ∧
    (busy.voice 2).reserved = true ∧ 2 < busy.hw.nvMax ∧
    (next busy (exec (.noteon 0 60 100 0) busy)).cfg = busy.cfg :=
  ⟨witness_busy_consistent, rfl, by decide, by decide, by decide⟩

/-- Each clause of `ErrorLatchHistory`: an error raised, one cleared by RESET, one that stays. -/
theorem witness_ErrorLatchHistory :
    let s : State := { busy with cfgerr := true, errcode := 3, errcmd := 0x15070000 }
    (next busy (exec (.cfg 5 7 0) busy)).cfgerr = true ∧ (next s (exec (.reset 0) s)).cfgerr = false ∧
    (next s (exec (.cfg 10 0 0) s)).cfgerr = true := by decide

theorem witness_EventsKeepOtherChannels :
    (1 : BitVec 4) ≠ 0 ∧ (7 : BitVec 8).toNat ≠ 121 ∧
    exec (.ctrl 0 7 100 0) busy = .next (next busy (exec (.ctrl 0 7 100 0) busy)) := ⟨by decide, by decide, rfl⟩

theorem witness_OpmodeIsUnobservable :
    State.reset.hw = refParams true false ∧ Consistent State.reset ∧
    (∀ idx val z, Instr.noteon 0 60 100 0 ≠ .cfg idx val z) ∧
    exec (.noteon 0 60 100 0) State.reset = .next (next State.reset (exec (.noteon 0 60 100 0) State.reset)) :=
  ⟨rfl, witness_reset_consistent, by simp, rfl⟩

theorem witness_EventsKeepOtherActiveLists :
    Consistent busy ∧ (1 : BitVec 4) ≠ 0 ∧ (1 : BitVec 4) ≠ 9 ∧ (7 : BitVec 8).toNat ≠ 121 ∧
    exec (.noteon 0 60 100 0) busy = .next (next busy (exec (.noteon 0 60 100 0) busy)) :=
  ⟨witness_busy_consistent, by decide, by decide, by decide, rfl⟩

theorem witness_AssemblerWords :
    (List.replicate 13 (0 : BitVec 8)).length = 13 ∧ (List.replicate 13 (0 : BitVec 8))[12]? = some 0 := by decide

/-- Slots 0 and 17 of `REF`: the items are their key-offs. -/
theorem witness_RefRegisterAddresses :
    let s := State.reset
    s.hw = refParams true false ∧ Consistent s ∧ 0 ≠ 17 ∧ 0 < s.cfg.nchips.toNat * 23 ∧
    17 < s.cfg.nchips.toNat * 23 ∧ (s.voice 0).reserved = false ∧ (s.voice 17).reserved = false ∧
    OutItem.reg 0x0B0 0 ∈ s.voiceItems 0 ∧ OutItem.reg 0x1B8 0 ∈ s.voiceItems 17 :=
  ⟨rfl, witness_reset_consistent, by decide, by decide, by decide, by decide, by decide,
    List.mem_append_right _ (by decide), List.mem_append_right _ (by decide)⟩

/-- Each kind of item that `OutputItemForms` speaks of goes out. -/
theorem witness_OutputItemForms :
    exec (.reset 0) oneNote = .next (next oneNote (exec (.reset 0) oneNote)) ∧
    (emits oneNote 0xF0000000).head? = some (.rst, 0, 0) ∧
    let s := { oneNote with hw := refParams true true, cfg := { Cfg.pinReset with stereo := true } }
    exec (.ctrl 0 10 127 0) s = .next (next s (exec (.ctrl 0 10 127 0) s)) ∧
    (emits s 0xB00A7F00).getLast? = some (.pan, 0xC0, 127) := ⟨rfl, by decide, rfl, by decide⟩

end Sys2Proof.Tests
end

section
/-! The registers a voice's writes go to; the items every event appends to the output; and the three things a command
can do to the state. -/

namespace Sys2Proof.Machine

open Sys2Proof

/-! ### The registers of a voice -/

/-- `s.Register v b o`: a write procedure of voice `v` writes the register at map result `o` of bank `b`
(44_register_mapper.md R252). -/
inductive State.Register (s : State) (v : Nat) : BitVec 9 → Option (BitVec 9) → Prop
  | operator {b : BitVec 9} (op : Fin 2)
      (hb : b ∈ [s.hw.banks.char, s.hw.banks.level, s.hw.banks.env1, s.hw.banks.env2, s.hw.banks.wave]) :
      s.Register v b (s.mapOp v (op.castLE (by decide)))
  | pitch {b : BitVec 9} (hb : b ∈ [s.hw.banks.freqLo, s.hw.banks.freqHi]) : s.Register v b (s.mapPitch v)
  | pan : s.Register v s.hw.banks.fbconn (s.mapPan v)

/-- `MapOp` of a slot's own operators reads the build and the configuration alone: only the operators of a pair's second
half ask for the category (44_register_mapper.md R246). -/
theorem State.mapOp_own (s : State) (v : Nat) (op : Fin 2) :
    s.mapOp v (op.castLE (by decide)) =
      singlePort s.hw (if op = 0 then (s.opRow (s.localSlot v)).mod else (s.opRow (s.localSlot v)).car) := by
  match op with
  | 0 => rfl
  | 1 => rfl

/-- The registers of a voice are the same in two states of one build and one configuration. -/
theorem State.Register.of_eq {s t : State} (hw : t.hw = s.hw) (hc : t.cfg = s.cfg) {v : Nat} {b : BitVec 9}
    {o : Option (BitVec 9)} (h : t.Register v b o) : s.Register v b o := by
  cases h with
  | operator op hb =>
    have hm : t.mapOp v (op.castLE (by decide)) = s.mapOp v (op.castLE (by decide)) := by
      rw [State.mapOp_own, State.mapOp_own]
      simp only [State.opRow, State.localSlot, hw, hc]
    rw [hm]
    exact .operator op (hw ▸ hb)
  | pitch hb =>
    have hm : t.mapPitch v = s.mapPitch v := by simp only [State.mapPitch, State.localSlot, hw]
    rw [hm]
    exact .pitch (hw ▸ hb)
  | pan =>
    have hm : t.mapPan v = s.mapPan v := by simp only [State.mapPan, State.localSlot, hw]
    rw [hm, hw]
    exact .pan

/-! ### Items with a property -/

/-- Every item that a write procedure of voice `v` can emit has `P`: a write of one of its registers with any data, and,
with full panning, a pan item at its feedback/connection register (44_register_mapper.md R269). -/
structure VoiceItemsHave (P : OutItem → Prop) (s : State) (v : Nat) : Prop where
  reg : ∀ {b : BitVec 9} {o : Option (BitVec 9)} {d : Byte}, s.Register v b o → ∀ x, x ∈ s.regItem v b o d → P x
  pan : s.hw.capFullpan = true → ∀ o, s.mapPan v = some o → ∀ pan : BitVec 7,
    P (OutItem.pan (outAddr (v / s.hw.spc) (s.hw.banks.fbconn.toNat + o.toNat)) (pan.setWidth 8))

/-- The voices an event can write: the live ones, and those the lists hold. -/
def State.Names (s : State) (v : Nat) : Prop := v < s.cfg.nv s.hw ∨ v ∈ s.free ∨ ∃ c, v ∈ s.activeOf c

/-- Every item that an event can emit has `P`. -/
def ItemsHave (P : OutItem → Prop) (s : State) : Prop := ∀ v, s.Names v → VoiceItemsHave P s v

variable {P : OutItem → Prop} {s : State} {v : Nat}

theorem ItemsHave.of_free (h : ItemsHave P s) (hv : v ∈ s.free) : VoiceItemsHave P s v := h v (.inr (.inl hv))

theorem ItemsHave.of_active (h : ItemsHave P s) {c : BitVec 4} (hv : v ∈ s.activeOf c) : VoiceItemsHave P s v :=
  h v (.inr (.inr ⟨c, hv⟩))

/-- The operations of an event leave open the same items of a voice. -/
theorem VoiceItemsHave.of_frame {t : State} (h : VoiceItemsHave P s v) (f : EventFrame P s t) :
    VoiceItemsHave P t v where
  reg {b o d} hr x hx := by
    have hi : t.regItem v b o d = s.regItem v b o d := by simp only [State.regItem, f.hw]
    exact h.reg (hr.of_eq f.hw f.cfg) x (hi ▸ hx)
  pan hf o ho k := by
    have hm : t.mapPan v = s.mapPan v := by simp only [State.mapPan, State.localSlot, f.hw]
    rw [f.hw] at hf ⊢
    exact h.pan hf o (hm ▸ ho) k

theorem VoiceItemsHave.volumePhase (h : VoiceItemsHave P s v) : ∀ x, x ∈ s.volumePhase v → P x := fun x hx =>
  (List.mem_append.1 hx).elim (h.reg (.operator 0 (by simp)) x) (h.reg (.operator 1 (by simp)) x)

theorem VoiceItemsHave.pitchPhase (h : VoiceItemsHave P s v) : ∀ x, x ∈ s.pitchPhase v → P x := fun x hx =>
  (List.mem_append.1 hx).elim (h.reg (.pitch (by simp)) x) (h.reg (.pitch (by simp)) x)

theorem VoiceItemsHave.keyOffItem (h : VoiceItemsHave P s v) : ∀ x, x ∈ s.keyOffItem v → P x :=
  h.reg (.pitch (by simp))

theorem VoiceItemsHave.panPhase (h : VoiceItemsHave P s v) : ∀ x, x ∈ s.panPhase v → P x := by
  intro x hx
  unfold State.panPhase at hx
  cases hm : s.mapPan v with
  | none => simp [hm] at hx
  | some o =>
    simp only [hm, List.mem_cons] at hx
    rcases hx with rfl | hx
    · exact h.reg .pan _ (by rw [hm]; exact List.mem_singleton_self _)
    · split at hx
      next hf =>
        rw [List.mem_singleton.1 hx]
        exact h.pan hf.2 o hm _
      next => simp at hx

/-! ### The frame of the write procedures -/

namespace EventFrame

theorem applyOperator (h : VoiceItemsHave P s v) (t : BitVec 9) (op : Fin 2) :
    EventFrame P s (s.applyOperator v t op) := by
  rw [State.applyOperator_eq]
  refine emitAll s fun x hx => ?_
  simp only [List.mem_append] at hx
  rcases hx with ((hx | hx) | hx) | hx <;> exact h.reg (.operator op (by simp)) x hx

/-- The timbre phase of any voice, in the table or not. -/
theorem applyTimbre (h : VoiceItemsHave P s v) (t : BitVec 9) : EventFrame P s (s.applyTimbre v t) := by
  unfold State.applyTimbre
  split
  · exact refl s
  · have f0 : EventFrame P s (s.setVoice v { s.voice v with timbre := t }) := setVoice _ _ _
    have f1 := f0.trans (applyOperator (h.of_frame f0) t 0)
    have f2 := f1.trans (applyOperator (h.of_frame f1) t 1)
    refine f2.trans ?_
    rw [State.writeVoiceReg_eq]
    exact emitAll _ ((h.of_frame f2).reg .pan)

theorem applyVolume (h : VoiceItemsHave P s v) : EventFrame P s (s.applyVolume v) := by
  rw [State.applyVolume_eq]
  exact emitAll s h.volumePhase

theorem applyPitch (h : VoiceItemsHave P s v) : EventFrame P s (s.applyPitch v true) := by
  rw [State.applyPitch_eq]
  exact (setVoice s _ _).trans (emitAll _ h.pitchPhase)

theorem keyOffWrite (h : VoiceItemsHave P s v) : EventFrame P s (s.keyOffWrite v) := by
  rw [State.keyOffWrite_eq]
  exact emitAll s h.keyOffItem

theorem applyPan (h : VoiceItemsHave P s v) : EventFrame P s (s.applyPan v) := by
  rw [State.applyPan_eq]
  exact emitAll s h.panPhase

theorem startNote (h : VoiceItemsHave P s v) (t : BitVec 9) : EventFrame P s (s.startNote v t) := by
  have f1 := applyTimbre h t
  have f2 := f1.trans (applyVolume (h.of_frame f1))
  have f3 := f2.trans (applyPitch (h.of_frame f2))
  exact f3.trans (applyPan (h.of_frame f3))

/-! ### The frame of the pool's operations -/

theorem releaseVoice (h : VoiceItemsHave P s v) : EventFrame P s (s.releaseVoice v) := by
  have f0 : EventFrame P s (s.setVoice v { s.voice v with on := false }) := setVoice _ _ _
  have f1 := f0.trans (keyOffWrite (h.of_frame f0))
  exact ((f1.trans (setActive _ _ _)).trans (setVoice _ _ _)).trans (setFree _ _)

theorem noteOff (h : ItemsHave P s) (ch : BitVec 4) (key : BitVec 7) : EventFrame P s (s.noteOff ch key) := by
  cases hf : s.findNote ch key with
  | none => rw [s.noteOff_of_none hf]; exact refl s
  | some v => rw [s.noteOff_of_some hf]; exact releaseVoice (h.of_active (List.mem_of_find?_eq_some hf))

theorem allocate : EventFrame P s s.allocate.2 := by
  unfold State.allocate
  split
  · exact refl s
  · exact setFree s _

/-- A loop over a channel's voices has the frame if each turn has it. -/
theorem forActive (h : ItemsHave P s) (c : BitVec 4) {f : State → Nat → State}
    (hf : ∀ t v, VoiceItemsHave P t v → EventFrame P t (f t v)) : EventFrame P s (s.forActive c f) := by
  have loop : ∀ (l : List Nat) (t : State), EventFrame P s t → (∀ v ∈ l, VoiceItemsHave P s v) →
      EventFrame P s (l.foldl f t) := by
    intro l
    induction l with
    | nil => exact fun t ht _ => ht
    | cons v l ih =>
      intro t ht hl
      exact ih _ (ht.trans (hf t v ((hl v (by simp)).of_frame ht))) fun w hw => hl w (by simp [hw])
  exact loop _ s (refl s) fun v hv => h.of_active hv

/-- A change of channel `ch` and a loop over its voices. -/
theorem setChan_forActive (h : ItemsHave P s) (ch : BitVec 4) (k : Chan) {f : State → Nat → State}
    (hf : ∀ t v, VoiceItemsHave P t v → EventFrame P t (f t v)) :
    EventFrame P s ((s.setChan ch k).forActive ch f) := by
  have f0 : EventFrame P s (s.setChan ch k) := setChan _ _ _
  have h' : ItemsHave P (s.setChan ch k) := fun v hv => (h v hv).of_frame f0
  exact f0.trans (forActive h' ch hf)

theorem softReset (h : ItemsHave P s) : EventFrame P s s.softReset := by
  rw [State.softReset_eq]
  refine (emitAll s fun x hx => ?_).trans (stateReset _)
  obtain ⟨v, hv, hx⟩ := List.mem_flatMap.1 hx
  split at hx
  · exact (h v (.inl (List.mem_range.1 hv))).keyOffItem x hx
  · simp at hx

end EventFrame

/-! ### The voice a NOTEON gets -/

theorem State.mem_free_of_allocate (h : s.allocate.1 = some v) : v ∈ s.free := by
  unfold State.allocate at h
  split at h
  next => simp at h
  next hf => simp_all

theorem State.releaseVoice_free (s : State) (v : Nat) : (s.releaseVoice v).free = s.free ++ [v] := by
  simp [State.releaseVoice, State.keyOffWrite_eq]

/-- NOTEOFF moves voices from its channel's list to `FREE`, and none from elsewhere (41_event_commands.md R160). -/
theorem State.mem_free_noteOff {ch : BitVec 4} {key : BitVec 7} (h : v ∈ (s.noteOff ch key).free) :
    v ∈ s.free ∨ v ∈ s.activeOf ch := by
  cases hf : s.findNote ch key with
  | none => rw [s.noteOff_of_none hf] at h; exact .inl h
  | some w =>
    rw [s.noteOff_of_some hf, State.releaseVoice_free, List.mem_append, List.mem_singleton] at h
    rcases h with h | rfl
    · exact .inl h
    · exact .inr (List.mem_of_find?_eq_some hf)

/-- AllocateOrSteal has the frame, and gives a voice that `FREE` or a list held (40_voice_pool.md R135). -/
theorem EventFrame.allocateOrSteal (h : ItemsHave P s) :
    EventFrame P s s.allocateOrSteal.2 ∧ ∀ v, s.allocateOrSteal.1 = some v → s.Names v := by
  unfold State.allocateOrSteal
  split
  · exact ⟨allocate, fun v hv => .inr (.inl (State.mem_free_of_allocate hv))⟩
  · split
    · exact ⟨refl s, fun v hv => by simp at hv⟩
    · exact ⟨(noteOff h _ _).trans allocate, fun v hv =>
        .inr ((State.mem_free_noteOff (State.mem_free_of_allocate hv)).imp_right fun hm => ⟨_, hm⟩)⟩

/-! ### The frame of the events -/

namespace EventFrame

theorem noteOn (h : ItemsHave P s) (ch : BitVec 4) (key vel : BitVec 7) : EventFrame P s (s.noteOn ch key vel) := by
  obtain ⟨fa, hv⟩ := allocateOrSteal h
  unfold State.noteOn
  split
  · exact refl s
  · split
    · exact noteOff h ch key
    · split
      next s' heq => rw [heq] at fa; exact fa
      next v s' heq =>
        rw [heq] at fa hv
        have fb := fa.trans (bindVoice s' v ch key vel)
        exact fb.trans (startNote ((h v (hv v rfl)).of_frame fb) _)

theorem rebend (h : ItemsHave P s) (ch : BitVec 4) (k : Chan) : EventFrame P s (s.rebend ch k) :=
  setChan_forActive h ch _ fun _ _ => applyPitch

theorem control (h : ItemsHave P s) (ch : BitVec 4) (ctl : Controller) (val : BitVec 7) :
    EventFrame P s (s.control ch ctl val) := by
  cases ctl with
  | volume | expression | brightness => exact setChan_forActive h ch _ fun _ _ => applyVolume
  | pan => exact setChan_forActive h ch _ fun _ _ => applyPan
  | detune => exact setChan_forActive h ch _ fun _ _ => applyPitch
  | allNotesOff => exact forActive h ch fun _ _ => releaseVoice
  | resetAll => exact softReset h
  | rpnMsb | rpnLsb => exact setChan s _ _
  | dataEntryMsb | dataEntryLsb =>
    unfold State.control
    dsimp only
    split
    · exact rebend h ch _
    · exact refl s

theorem controlChange (h : ItemsHave P s) (ch : BitVec 4) (ctl val : BitVec 7) :
    EventFrame P s (s.controlChange ch ctl val) := by
  unfold State.controlChange
  split
  · exact control h ch _ val
  · exact refl s

end EventFrame

/-! ### What a command can do -/

/-- CFG traps, writing the error registers alone, or writes its register and runs a full reset
(45_backend_and_system_commands.md R292). -/
theorem State.configure_cases (s : State) (idx : BitVec 4) (val : BitVec 8) (w : Word) :
    (∃ e c m, s.configure idx val w = { s with cfgerr := e, errcode := c, errcmd := m }) ∨
    s.configure idx val w = ({ s with cfg := s.cfg.write idx val } : State).fullReset := by
  unfold State.configure State.raiseMisconfig
  split
  · split <;> exact .inl ⟨_, _, _, rfl⟩
  · exact .inr rfl

/-- A command has the frame of an event, or writes only the error registers (a trap) or the timbre RAM, or is a full
reset under some configuration. -/
theorem exec_cases {i : Instr} {t : State} (h : exec i s = .next t) :
    (∀ P, ItemsHave P s → EventFrame P s t) ∨
    (∃ e c m r, t = { s with cfgerr := e, errcode := c, errcmd := m, ram := r }) ∨
    ∃ c, t = ({ s with cfg := c } : State).fullReset := by
  cases i with
  | nop | reserved3 | reserved4 | reserved5 | reserved6 | reserved7 | reservedA | reservedD =>
    cases h
    exact .inl fun _ _ => .refl s
  | cfg idx val z =>
    cases h
    rcases s.configure_cases idx val (encode (.cfg idx val z)) with ⟨e, c, m, hs⟩ | hs
    · exact .inr (.inl ⟨e, c, m, s.ram, hs⟩)
    · exact .inr (.inr ⟨_, hs⟩)
  | tbwr addr data z =>
    cases h
    refine .inr (.inl ⟨s.cfgerr, s.errcode, s.errcmd, (s.timbreWrite addr data).ram, ?_⟩)
    unfold State.timbreWrite
    split <;> rfl
  | noteoff ch key vel z => cases h; exact .inl fun _ hP => .gated s (.noteOff hP ch _)
  | noteon ch key vel z => cases h; exact .inl fun _ hP => .gated s (.noteOn hP ch _ _)
  | ctrl ch ctl val z => cases h; exact .inl fun _ hP => .gated s (.controlChange hP ch _ _)
  | prog ch prog z => cases h; exact .inl fun _ _ => .gated s (.setChan s _ _)
  | bend ch lsb msb z => cases h; exact .inl fun _ hP => .gated s (.rebend hP ch _)
  | reset z => cases h; exact .inr (.inr ⟨s.cfg, rfl⟩)

theorem State.fullReset_out (s : State) : s.fullReset.out = s.out ++ fullResetItems s.hw s.cfg := by
  rw [State.fullReset_eq]; rfl

theorem State.fullReset_cfg (s : State) : s.fullReset.cfg = s.cfg := by
  rw [State.fullReset_eq]; rfl

theorem State.fullReset_shadow (s : State) :
    s.fullReset.shadow = shadowAfter s.shadow (fullResetItems s.hw s.cfg) := by
  rw [State.fullReset_eq]; rfl

/-- Settles O43: an event emits through `emitAll` alone, a trap and a TBWR emit nothing, and a full reset empties
`SHADOW` as it sends its `RST` item. -/
theorem shadowFollowsOutput : Obligations.ShadowFollowsOutput := by
  intro i s t h
  rcases exec_cases h with hf | ⟨e, c, m, r, rfl⟩ | ⟨c, rfl⟩
  · have hall : ItemsHave (fun _ => True) s := fun _ _ => ⟨fun _ _ _ => trivial, fun _ _ _ _ => trivial⟩
    obtain ⟨items, ho, hs, -⟩ := (hf _ hall).output
    exact ⟨items, ho, hs⟩
  · exact ⟨[], (List.append_nil _).symm, rfl⟩
  · exact ⟨_, State.fullReset_out _, State.fullReset_shadow _⟩

/-! ### The chip of an item -/

theorem bankOk_apply {b : BitVec 9} {offs : List (Option (BitVec 9))} (h : Params.bankOk b offs = true) {x : BitVec 9}
    (hx : some x ∈ offs) : b.toNat + x.toNat < 512 := by
  simpa using List.all_eq_true.1 h _ hx

/-- An offset that survives the filter of a single-port chip was there before it (44_register_mapper.md R251). -/
theorem eq_some_of_singlePort {p : Params} {o : Option (BitVec 9)} {x : BitVec 9} (h : singlePort p o = some x) :
    o = some x :=
  (Option.filter_eq_some_iff.1 h).1

/-- An entry read from a map is the default, `NP` in every map, or stands in the map. -/
theorem getD_eq_or_mem {α : Type} (l : List α) (n : Nat) (d : α) : l.getD n d = d ∨ l.getD n d ∈ l := by
  by_cases hn : n < l.length
  · rw [List.getD_eq_getElem _ _ hn]
    exact .inr (List.getElem_mem hn)
  · exact .inl (List.getD_eq_default _ _ (Nat.le_of_not_lt hn))

/-- The offsets MapPitch and MapPan give stand in their maps (R249, R250). -/
theorem some_mem_of_singlePort_getD {p : Params} {l : List (Option (BitVec 9))} {n : Nat} {x : BitVec 9}
    (h : singlePort p (l.getD n none) = some x) : some x ∈ l := by
  have hx := eq_some_of_singlePort h
  rcases getD_eq_or_mem l n none with hd | hm
  · exact absurd (hd.symm.trans hx) nofun
  · exact hx ▸ hm

/-- A row of the operator map is a row of one of the two maps, or gives `NP` for both operators (R246). -/
theorem State.opRow_eq_or_mem (s : State) (n : Nat) :
    s.opRow n = ⟨none, none⟩ ∨ s.opRow n ∈ s.hw.opmapStd ++ s.hw.opmapInv := by
  unfold State.opRow
  split
  · exact (getD_eq_or_mem _ n _).imp_right (List.mem_append_right _)
  · exact (getD_eq_or_mem _ n _).imp_right (List.mem_append_left _)

/-- The offsets MapOp gives for a slot's own operators are among those `Params.banksOk` checks. -/
theorem State.some_mem_of_mapOp {op : Fin 2} {x : BitVec 9} (h : s.mapOp v (op.castLE (by decide)) = some x) :
    some x ∈ (s.hw.opmapStd ++ s.hw.opmapInv).flatMap fun r => [r.mod, r.car] := by
  rw [State.mapOp_own] at h
  have hx := eq_some_of_singlePort h
  rcases s.opRow_eq_or_mem (s.localSlot v) with hd | hm
  · simp [hd] at hx
  · refine List.mem_flatMap.2 ⟨_, hm, ?_⟩
    split at hx <;> simp [hx]

/-- In a well-formed build every register of a voice has a 9-bit offset (00_scope.md R14). -/
theorem State.Register.lt_512 (hwf : s.hw.wf = true) {b x : BitVec 9} {o : Option (BitVec 9)} (h : s.Register v b o)
    (ho : o = some x) : b.toNat + x.toNat < 512 := by
  have hb : s.hw.banksOk = true := by
    simp only [Params.wf, Bool.and_eq_true] at hwf
    exact hwf.2
  simp only [Params.banksOk, Bool.and_eq_true, List.all_eq_true] at hb
  obtain ⟨⟨hops, hpitch⟩, hpan⟩ := hb
  cases h with
  | operator op hb => exact bankOk_apply (hops b hb) (State.some_mem_of_mapOp ho)
  | pitch hb => exact bankOk_apply (hpitch b hb) (some_mem_of_singlePort_getD ho)
  | pan => exact bankOk_apply hpan (some_mem_of_singlePort_getD ho)

/-- The item is a backend reset, or addresses one of the first `n` chips (20_memory.md R78). -/
def OutItem.OnChipBelow (n : Nat) (x : OutItem) : Prop := x.kind ≠ .rst → x.addr.toNat / 512 < n

/-- An item at a 9-bit offset of one of the first `n` chips is on a chip below `n`. -/
theorem OutItem.OnChipBelow.of_outAddr {n chip off : Nat} {x : OutItem} (hx : x.addr = outAddr chip off)
    (hc : chip < n) (hn : n < 8) (ho : off < 512) : x.OnChipBelow n := by
  intro _
  rw [hx, outAddr_toNat (by omega) ho]
  omega

/-- InitChip writes offsets of its own chip (70_reset_and_hazards.md R353). -/
theorem initItems_addr {p : Params} {c : Cfg} {chip : Nat} {x : OutItem} (hx : x ∈ initItems p c chip) :
    ∃ off < 512, x.addr = outAddr chip off := by
  rw [initItems, List.mem_append] at hx
  rcases hx with hx | hx
  · split at hx
    · simp only [List.mem_cons, List.not_mem_nil, or_false] at hx
      rcases hx with rfl | rfl
      · exact ⟨0x105, by decide, rfl⟩
      · exact ⟨0x104, by decide, rfl⟩
    · rw [List.mem_singleton.1 hx]
      exact ⟨0x001, by decide, rfl⟩
  · rw [List.mem_singleton.1 hx]
    exact ⟨0x0BD, by decide, rfl⟩

/-- A full reset writes the chips that are live under its configuration, and no other (R351). -/
theorem fullResetItems_onChipBelow (p : Params) (c : Cfg) :
    ∀ x, x ∈ fullResetItems p c → x.OnChipBelow c.nchips.toNat := by
  intro x hx
  rw [fullResetItems, List.mem_cons] at hx
  rcases hx with rfl | hx
  · exact fun h => absurd rfl h
  · obtain ⟨chip, hchip, hx⟩ := List.mem_flatMap.1 hx
    obtain ⟨off, ho, hx⟩ := initItems_addr hx
    exact .of_outAddr hx (List.mem_range.1 hchip) c.nchips.isLt ho

/-- A live voice's items address a live chip (44_register_mapper.md R240). -/
theorem VoiceItemsHave.onChipBelow (hwf : s.hw.wf = true) (hv : v < s.cfg.nv s.hw) :
    VoiceItemsHave (OutItem.OnChipBelow s.cfg.nchips.toNat) s v := by
  have hchip : v / s.hw.spc < s.cfg.nchips.toNat := Nat.div_lt_of_lt_mul (Nat.mul_comm _ _ ▸ hv)
  refine ⟨fun {b o d} hr x hx => ?_, fun _ o ho k => ?_⟩
  · cases o with
    | none => simp [State.regItem] at hx
    | some y =>
      rw [List.mem_singleton.1 hx]
      exact .of_outAddr rfl hchip s.cfg.nchips.isLt (hr.lt_512 hwf rfl)
  · exact .of_outAddr rfl hchip s.cfg.nchips.isLt (State.Register.pan.lt_512 hwf ho)

/-- The voices an event of a consistent machine can write are live. -/
theorem Consistent.lt_nv (h : Consistent s) (hv : s.Names v) : v < s.cfg.nv s.hw := by
  obtain ⟨-, -, ⟨-, -, hfree, -⟩, hactive, -⟩ := h
  rcases hv with hv | hv | ⟨c, hv⟩
  · exact hv
  · exact (hfree v hv).1
  · exact (hactive c v hv).1

/-- Settles O46: an event writes live voices only, and a full reset the live chips of the new configuration. -/
theorem itemsAddressLiveChips : Obligations.ItemsAddressLiveChips := by
  intro i s t hwf hc h
  rcases exec_cases h with hf | ⟨e, c, m, r, rfl⟩ | ⟨c, rfl⟩
  · have f := hf _ fun v hv => VoiceItemsHave.onChipBelow hwf (hc.lt_nv hv)
    obtain ⟨items, ho, -, hx⟩ := f.output
    rw [f.cfg]
    exact ⟨items, ho, hx⟩
  · exact ⟨[], (List.append_nil _).symm, by simp⟩
  · rw [State.fullReset_cfg]
    exact ⟨_, State.fullReset_out _, fullResetItems_onChipBelow s.hw c⟩

end Sys2Proof.Machine
end

section
/-! Every command: what a step does to an invariant, the frame of the events, and the channel table. -/

namespace Sys2Proof.Machine

open Sys2Proof

variable {s t : State}

/-! ### Invariants of a step -/

/-- What no command looks at the inputs for, pin reset sets up, and every command keeps, every step keeps. -/
theorem step_keeps {Q : State → Prop} (hinputs : ∀ s rest, Q s → Q { s with inputs := rest })
    (hpin : ∀ s, Q s → Q s.pinReset) (hexec : ∀ i s t, Q s → exec i s = .next t → Q t) (hq : Q s)
    (h : step s = .next t) : Q t := by
  cases hi : s.inputs with
  | nil =>
    rw [step_of_nil s hi] at h
    cases h
    exact hq
  | cons x rest =>
    have hq' := hinputs s rest hq
    cases x with
    | rstPulse =>
      rw [step_of_rstPulse s hi] at h
      cases h
      exact hpin _ hq'
    | command w =>
      rw [step_of_command s hi] at h
      exact hexec _ _ _ hq' h

/-! ### The frame of a command -/

/-- A gated effect keeps what the effect keeps. -/
theorem gated_keeps {Q : State → Prop} (hs : Q s) {b : Bool} {f : State → State} (hf : Q (f s)) :
    Q (gated b f s) := by
  rcases gated_cases s b f with e | ⟨-, -, e⟩ <;> rw [e]
  · exact hs
  · exact hf

theorem ItemsHave.trivial (s : State) : ItemsHave (fun _ => True) s :=
  fun _ _ => ⟨fun _ _ _ => True.intro, fun _ _ _ _ => True.intro⟩

/-- TBWR writes the timbre RAM alone (45_backend_and_system_commands.md R296). -/
theorem State.timbreWrite_eq (s : State) (addr : BitVec 12) (data : Byte) :
    s.timbreWrite addr data = { s with ram := (s.timbreWrite addr data).ram } := by
  unfold State.timbreWrite
  split <;> rfl

/-- Which command does what: a CFG traps or resets under the written register, TBWR writes the timbre RAM, RESET resets,
and every other command has the frame of an event. -/
theorem exec_cases_command {i : Instr} (h : exec i s = .next t) :
    (∀ P, ItemsHave P s → EventFrame P s t) ∨
    (∃ idx val z, i = .cfg idx val z ∧
      ((∃ k, t = s.raiseMisconfig k (encode i)) ∨ t = ({ s with cfg := s.cfg.write idx val } : State).fullReset)) ∨
    (∃ addr data z, i = .tbwr addr data z ∧ t = { s with ram := t.ram }) ∨
    ∃ z, i = .reset z ∧ t = s.fullReset := by
  cases i with
  | nop | reserved3 | reserved4 | reserved5 | reserved6 | reserved7 | reservedA | reservedD =>
    cases h
    exact .inl fun _ _ => .refl s
  | cfg idx val z =>
    cases h
    refine .inr (.inl ⟨idx, val, z, rfl, ?_⟩)
    unfold State.configure
    split
    · exact .inl ⟨_, rfl⟩
    · exact .inr rfl
  | tbwr addr data z => cases h; exact .inr (.inr (.inl ⟨addr, data, z, rfl, s.timbreWrite_eq addr data⟩))
  | noteoff ch key vel z => cases h; exact .inl fun _ hP => .gated s (.noteOff hP ch _)
  | noteon ch key vel z => cases h; exact .inl fun _ hP => .gated s (.noteOn hP ch _ _)
  | ctrl ch ctl val z => cases h; exact .inl fun _ hP => .gated s (.controlChange hP ch _ _)
  | prog ch prog z => cases h; exact .inl fun _ _ => .gated s (.setChan s _ _)
  | bend ch lsb msb z => cases h; exact .inl fun _ hP => .gated s (.rebend hP ch _)
  | reset z => cases h; exact .inr (.inr (.inr ⟨z, rfl, rfl⟩))

/-- The trap changes nothing but the error registers (60_exceptions.md R324). -/
theorem State.raiseMisconfig_eq (s : State) (k : Cause) (w : Word) :
    ∃ e c m, s.raiseMisconfig k w = { s with cfgerr := e, errcode := c, errcmd := m } := by
  unfold State.raiseMisconfig
  split <;> exact ⟨_, _, _, rfl⟩

/-- Settles O54, command by command: a trap, a TBWR and a full reset each write what is theirs, and all else has the
frame of an event. -/
theorem whoWritesWhat : Obligations.WhoWritesWhat := by
  intro i s t h
  rcases exec_cases_command h with hf | ⟨idx, val, z, rfl, ⟨k, rfl⟩ | rfl⟩ | ⟨addr, data, z, rfl, ht⟩ | ⟨z, rfl, rfl⟩
  · have f := hf _ (ItemsHave.trivial s)
    exact ⟨f.hw, f.inputs, fun _ => f.cfg, fun _ => f.ram⟩
  · obtain ⟨e, c, m, ht⟩ := s.raiseMisconfig_eq k (encode (.cfg idx val z))
    rw [ht]
    exact ⟨rfl, rfl, fun _ => rfl, fun _ => rfl⟩
  · rw [State.fullReset_eq]
    exact ⟨rfl, rfl, fun hne => absurd rfl (hne idx val z), fun _ => rfl⟩
  · rw [ht]
    exact ⟨rfl, rfl, fun _ => rfl, fun hne => absurd rfl (hne addr data z)⟩
  · rw [State.fullReset_eq]
    exact ⟨rfl, rfl, fun _ => rfl, fun _ => rfl⟩

/-- No command changes the build. -/
theorem exec_hw {i : Instr} (h : exec i s = .next t) : t.hw = s.hw := (whoWritesWhat i s t h).1

/-! ### The error registers -/

theorem ErrorOk.of_eq (h : ErrorOk s) (he : t.cfgerr = s.cfgerr ∧ t.errcode = s.errcode ∧ t.errcmd = s.errcmd) :
    ErrorOk t := by
  obtain ⟨herr, hcode, hcmd⟩ := he
  rw [ErrorOk, herr, hcode, hcmd]
  exact h

/-- The codes of the causes are 1 to 6 (60_exceptions.md R321). -/
theorem Cause.code_bounds (k : Cause) : 1 ≤ k.code.toNat ∧ k.code.toNat ≤ 6 := by
  cases k <;> decide

/-- A CFG has opcode 1 (30_encoding.md R108). -/
theorem op_encode_cfg (idx : BitVec 4) (val : BitVec 8) (z : BitVec 16) : Word.op (encode (.cfg idx val z)) = 1 := by
  apply BitVec.eq_of_getLsbD_eq
  intro i hi
  simp only [Word.op, encode, formatC, BitVec.getLsbD_extractLsb', BitVec.getLsbD_append]
  interval_cases i <;> simp

/-- The trap latches a lawful cause and a lawful word, or keeps what is latched (60_exceptions.md R324, R327). -/
theorem ErrorOk.raiseMisconfig (h : ErrorOk s) (k : Cause) {w : Word} (hw : Word.op w = 1) :
    ErrorOk (s.raiseMisconfig k w) := by
  cases he : s.cfgerr with
  | true => simpa only [State.raiseMisconfig, he, if_true] using h
  | false =>
    rw [State.raiseMisconfig, he]
    exact ⟨k.code_bounds.1, k.code_bounds.2, hw⟩

theorem ErrorOk.fullReset (s : State) : ErrorOk s.fullReset := by
  rw [State.fullReset_eq]
  exact ⟨rfl, rfl⟩

theorem ErrorOk.exec {i : Instr} (hs : ErrorOk s) (h : exec i s = .next t) : ErrorOk t := by
  rcases exec_cases_command h with hf | ⟨idx, val, z, rfl, ⟨k, rfl⟩ | rfl⟩ | ⟨addr, data, z, rfl, ht⟩ | ⟨z, rfl, rfl⟩
  · exact hs.of_eq (hf _ (ItemsHave.trivial s)).errors
  · exact hs.raiseMisconfig k (op_encode_cfg idx val z)
  · exact .fullReset _
  · rw [ht]
    exact hs
  · exact .fullReset s

/-- Settles O50: only the trap sets the error registers, and only resets clear them. -/
theorem stepKeepsErrorRegisters : Obligations.StepKeepsErrorRegisters := fun _ _ =>
  step_keeps (fun _ _ h => h) (fun _ _ => ⟨rfl, rfl⟩) fun _ _ _ => ErrorOk.exec

end Sys2Proof.Machine
end

section
/-! The channel table: what each operation writes of it, and BendCalc's offsets. -/

namespace Sys2Proof.Machine

open Sys2Proof

variable {s t : State}

/-! ### The operations on voices leave the channel table alone -/

@[simp] theorem State.applyTimbre_chans (s : State) (v : Nat) (r : BitVec 9) :
    (s.applyTimbre v r).chans = s.chans := by
  unfold State.applyTimbre
  split
  · rfl
  · simp [State.applyOperator_eq, State.writeVoiceReg_eq]

@[simp] theorem State.applyVolume_chans (s : State) (v : Nat) : (s.applyVolume v).chans = s.chans := by
  rw [State.applyVolume_eq, State.emitAll_chans]

@[simp] theorem State.applyPitch_chans (s : State) (v : Nat) : (s.applyPitch v true).chans = s.chans := by
  rw [State.applyPitch_eq, State.emitAll_chans, State.setVoice_chans]

@[simp] theorem State.applyPan_chans (s : State) (v : Nat) : (s.applyPan v).chans = s.chans := by
  rw [State.applyPan_eq, State.emitAll_chans]

@[simp] theorem State.startNote_chans (s : State) (v : Nat) (r : BitVec 9) : (s.startNote v r).chans = s.chans := by
  simp [State.startNote]

@[simp] theorem State.releaseVoice_chans (s : State) (v : Nat) : (s.releaseVoice v).chans = s.chans := by
  simp [State.releaseVoice, State.keyOffWrite_eq]

@[simp] theorem State.bindVoice_chans (s : State) (v : Nat) (ch : BitVec 4) (key vel : BitVec 7) :
    (s.bindVoice v ch key vel).chans = s.chans := rfl

/-- A loop of operations that leave the channel table alone does so. -/
theorem State.forActive_chans (s : State) (c : BitVec 4) {f : State → Nat → State}
    (hf : ∀ s v, (f s v).chans = s.chans) : (s.forActive c f).chans = s.chans :=
  List.foldlRecOn (motive := fun t : State => t.chans = s.chans) _ f rfl fun t ht v _ => (hf t v).trans ht

@[simp] theorem State.noteOff_chans (s : State) (ch : BitVec 4) (key : BitVec 7) :
    (s.noteOff ch key).chans = s.chans := by
  unfold State.noteOff
  split
  · exact s.releaseVoice_chans _
  · rfl

@[simp] theorem State.allocate_chans (s : State) : s.allocate.2.chans = s.chans := by
  unfold State.allocate
  split <;> rfl

@[simp] theorem State.allocateOrSteal_chans (s : State) : s.allocateOrSteal.2.chans = s.chans := by
  unfold State.allocateOrSteal
  split
  · exact s.allocate_chans
  · split
    · rfl
    · rw [State.allocate_chans, State.noteOff_chans]

@[simp] theorem State.noteOn_chans (s : State) (ch : BitVec 4) (key vel : BitVec 7) :
    (s.noteOn ch key vel).chans = s.chans := by
  have ha := s.allocateOrSteal_chans
  unfold State.noteOn
  split
  · rfl
  · split
    · exact s.noteOff_chans ch key
    · split
      next heq => rwa [heq] at ha
      next heq =>
        rw [heq] at ha
        rw [State.startNote_chans, State.bindVoice_chans, ha]

/-! ### BendCalc (41_event_commands.md R185) -/

theorem bendCalc_bendCalc (fine : Nat) (k : Chan) : bendCalc fine (bendCalc fine k) = bendCalc fine k := rfl

/-- A channel has BendCalc's offsets if they are those of its bend and range; BendCalc reads and writes nothing else. -/
theorem bendCalc_eq_self_iff (fine : Nat) (k : Chan) :
    bendCalc fine k = k ↔
      BitVec.ofInt 9 (bendSteps fine k.bend k.bendSemis k.bendCents / (fine : Int)) = k.keyOffset ∧
      (bendSteps fine k.bend k.bendSemis k.bendCents % (fine : Int)).toNat = k.keyDetune :=
  ⟨fun h => ⟨congrArg Chan.keyOffset h, congrArg Chan.keyDetune h⟩, fun ⟨ho, hd⟩ => by
    rw [bendCalc, ho, hd]⟩

/-- A change of any other field keeps BendCalc's offsets. -/
theorem bendCalc_eq_self_of_same {fine : Nat} {k k' : Chan}
    (hsame : (k'.bend, k'.bendSemis, k'.bendCents, k'.keyOffset, k'.keyDetune) =
      (k.bend, k.bendSemis, k.bendCents, k.keyOffset, k.keyDetune)) (h : bendCalc fine k = k) :
    bendCalc fine k' = k' := by
  rw [bendCalc_eq_self_iff] at h ⊢
  simp only [Prod.mk.injEq] at hsame
  obtain ⟨hbend, hsemis, hcents, hoffset, hdetune⟩ := hsame
  rwa [hbend, hsemis, hcents, hoffset, hdetune]

/-- The default bend is the centre, so its offsets are 0 (10_state.md R40). -/
theorem bendCalc_default (fine : Nat) : bendCalc fine Chan.default = Chan.default := by
  rw [bendCalc_eq_self_iff]
  simp [Chan.default, bendSteps]

/-! ### What an event writes of the channel table -/

/-- `t` has the channel table of `s` but for the entry of channel `ch`, which still has BendCalc's offsets if it had
them. -/
def ChanWrite (ch : BitVec 4) (s t : State) : Prop :=
  ∃ k, t.chans = (s.setChan ch k).chans ∧ (bendCalc s.hw.fine (s.chan ch) = s.chan ch → bendCalc s.hw.fine k = k)

namespace ChanWrite

variable {ch : BitVec 4}

theorem of_eq (ch : BitVec 4) (h : t.chans = s.chans) : ChanWrite ch s t :=
  ⟨s.chan ch, by simp [h, State.chan], id⟩

/-- A change of channel `ch` and a loop over its voices. -/
theorem setChan_forActive {k : Chan} {f : State → Nat → State} (hf : ∀ s v, (f s v).chans = s.chans)
    (hk : bendCalc s.hw.fine (s.chan ch) = s.chan ch → bendCalc s.hw.fine k = k) :
    ChanWrite ch s ((s.setChan ch k).forActive ch f) :=
  ⟨k, State.forActive_chans _ ch hf, hk⟩

theorem rebend (s : State) (ch : BitVec 4) (k : Chan) : ChanWrite ch s (s.rebend ch k) :=
  setChan_forActive (fun s v => s.applyPitch_chans v) fun _ => bendCalc_bendCalc s.hw.fine k

theorem progChange (s : State) (ch : BitVec 4) (prog : BitVec 7) : ChanWrite ch s (s.progChange ch prog) :=
  ⟨_, rfl, bendCalc_eq_self_of_same rfl⟩

/-- A controller other than Reset All Controllers writes its own channel, and the offsets with the bend range
(10_state.md R41). -/
theorem control (s : State) (ch : BitVec 4) {ctl : Controller} (hctl : ctl ≠ .resetAll) (val : BitVec 7) :
    ChanWrite ch s (s.control ch ctl val) := by
  cases ctl with
  | volume | expression | brightness =>
    exact setChan_forActive (fun s v => s.applyVolume_chans v) (bendCalc_eq_self_of_same rfl)
  | pan => exact setChan_forActive (fun s v => s.applyPan_chans v) (bendCalc_eq_self_of_same rfl)
  | detune => exact setChan_forActive (fun s v => s.applyPitch_chans v) (bendCalc_eq_self_of_same rfl)
  | allNotesOff => exact of_eq ch (s.forActive_chans ch fun s v => s.releaseVoice_chans v)
  | resetAll => exact absurd rfl hctl
  | rpnMsb | rpnLsb => exact ⟨_, rfl, bendCalc_eq_self_of_same rfl⟩
  | dataEntryMsb | dataEntryLsb =>
    unfold State.control
    dsimp only
    split
    · exact rebend s ch _
    · exact of_eq ch rfl

theorem gated {b : Bool} {f : State → State} (h : ChanWrite ch s (f s)) : ChanWrite ch s (gated b f s) :=
  gated_keeps (of_eq ch rfl) h

theorem chan_of_ne (h : ChanWrite ch s t) {c : BitVec 4} (hc : c ≠ ch) : t.chan c = s.chan c := by
  obtain ⟨k, hk, -⟩ := h
  rw [← s.chan_setChan_of_ne k hc, State.chan, State.chan, hk]

theorem bendOk (h : ChanWrite ch s t) (hw : t.hw = s.hw) (hs : BendOk s) : BendOk t := by
  obtain ⟨k, hk, hb⟩ := h
  intro c
  have hc : t.chan c = (s.setChan ch k).chan c := by rw [State.chan, State.chan, hk]
  rw [hw, hc, State.chan_setChan]
  split
  · exact hb (hs ch)
  · exact hs c

end ChanWrite

/-- Only 121 is the number of Reset All Controllers (30_encoding.md R112). -/
theorem eq_of_controllerOf_resetAll {ctl : BitVec 7} (h : controllerOf ctl = some .resetAll) : ctl = 121 := by
  revert ctl
  decide

/-- A controller number other than 121 writes its own channel alone. -/
theorem ChanWrite.controlChange (s : State) (ch : BitVec 4) {ctl : BitVec 7} (hctl : ctl ≠ 121) (val : BitVec 7) :
    ChanWrite ch s (s.controlChange ch ctl val) := by
  unfold State.controlChange
  split
  next k hk => exact .control s ch (fun he => hctl (eq_of_controllerOf_resetAll (he ▸ hk))) val
  next => exact .of_eq ch rfl

/-- Controller 121 resets the channel table, and every other one writes its own channel (41_event_commands.md R173). -/
theorem State.controlChange_chans (s : State) (ch : BitVec 4) (ctl val : BitVec 7) :
    s.controlChange ch ctl val = s.softReset ∨ ChanWrite ch s (s.controlChange ch ctl val) := by
  by_cases h : ctl = 121
  · subst h
    exact .inl rfl
  · exact .inr (.controlChange s ch h val)

theorem ne_121_of_isSeven {ctl : Byte} (h7 : isSeven ctl = true) (h : ctl.toNat ≠ 121) : seven ctl ≠ 121 := by
  intro he
  rw [← toNat_seven ((isSeven_iff ctl).1 h7), he] at h
  exact h rfl

/-- Settles O56: notes leave the channel table alone, and every other event but Reset All Controllers writes the entry
of its own channel. -/
theorem eventsKeepOtherChannels : Obligations.EventsKeepOtherChannels := by
  intro s ch c a b z z' t hc
  refine ⟨fun h => ?_, fun h => ?_, fun ha h => ?_, fun h => ?_, fun h => ?_⟩ <;> cases h
  · exact gated_keeps (Q := fun t => t.chans = s.chans) rfl (s.noteOff_chans ch _)
  · exact gated_keeps (Q := fun t => t.chans = s.chans) rfl (s.noteOn_chans ch _ _)
  · by_cases h7 : isSeven a = true
    · exact (ChanWrite.controlChange s ch (ne_121_of_isSeven h7 ha) (seven b)).gated.chan_of_ne hc
    · rw [gated_of_bytes s (by simp [h7])]
  · exact (ChanWrite.progChange s ch _).gated.chan_of_ne hc
  · exact (ChanWrite.rebend s ch _).gated.chan_of_ne hc

/-! ### BendCalc's offsets -/

theorem BendOk.stateReset (s : State) : BendOk s.stateReset := by
  intro c
  rw [State.stateReset_chan]
  exact bendCalc_default _

theorem BendOk.fullReset (s : State) : BendOk s.fullReset := by
  rw [State.fullReset_eq]
  exact .stateReset _

theorem BendOk.softReset (s : State) : BendOk s.softReset := .stateReset _

theorem BendOk.controlChange (h : BendOk s) (ch : BitVec 4) (ctl val : BitVec 7) :
    BendOk (s.controlChange ch ctl val) := by
  rcases s.controlChange_chans ch ctl val with e | w
  · rw [e]
    exact .softReset s
  · exact w.bendOk (EventFrame.controlChange (ItemsHave.trivial s) ch ctl val).hw h

theorem BendOk.exec {i : Instr} (hs : BendOk s) (h : exec i s = .next t) : BendOk t := by
  have hw := exec_hw h
  cases i with
  | nop | reserved3 | reserved4 | reserved5 | reserved6 | reserved7 | reservedA | reservedD => cases h; exact hs
  | cfg idx val z =>
    cases h
    rcases s.configure_cases idx val (encode (.cfg idx val z)) with ⟨e, c, m, ht⟩ | ht <;> rw [ht]
    · exact hs
    · exact .fullReset _
  | tbwr addr data z =>
    cases h
    rw [State.timbreWrite_eq]
    exact hs
  | noteoff ch key vel z => cases h; exact (ChanWrite.of_eq ch (s.noteOff_chans ch _)).gated.bendOk hw hs
  | noteon ch key vel z => cases h; exact (ChanWrite.of_eq ch (s.noteOn_chans ch _ _)).gated.bendOk hw hs
  | ctrl ch ctl val z => cases h; exact gated_keeps hs (hs.controlChange ch _ _)
  | prog ch prog z => cases h; exact (ChanWrite.progChange s ch _).gated.bendOk hw hs
  | bend ch lsb msb z => cases h; exact (ChanWrite.rebend s ch _).gated.bendOk hw hs
  | reset z => cases h; exact .fullReset s

/-- Settles O48: every write of a bend or a bend range runs BendCalc, no other write touches what it reads or writes,
and every reset sets the centred bend. -/
theorem stepKeepsBendOffsets : Obligations.StepKeepsBendOffsets := fun _ _ =>
  step_keeps (fun _ _ h => h) (fun _ _ => .stateReset _) fun _ _ _ => BendOk.exec

end Sys2Proof.Machine
end

section
/-! The invariants of the voice pool along a step. -/

namespace Sys2Proof.Machine

open Sys2Proof

variable {s : State} {v : Nat}

/-! ### Legal configurations (45_backend_and_system_commands.md R292, R299) -/

theorem CfgLegal.pinReset {p : Params} (h : p.wf = true) : CfgLegal p Cfg.pinReset := by
  simp only [Params.wf, Params.modelsOk, Bool.and_eq_true, decide_eq_true_eq] at h
  obtain ⟨⟨⟨⟨-, ⟨hfreq, hvol⟩, -⟩, -⟩, -⟩, -⟩ := h
  exact ⟨by decide, by decide, by decide, fun _ => rfl, hfreq, hvol⟩

section Write

variable (c : Cfg) (idx : BitVec 4) (val : BitVec 8)

theorem Cfg.write_freqsel : (c.write idx val).freqsel = if idx.toNat = 3 then val else c.freqsel := by
  unfold Cfg.write
  split <;> simp_all

theorem Cfg.write_volsel : (c.write idx val).volsel = if idx.toNat = 4 then val else c.volsel := by
  unfold Cfg.write
  split <;> simp_all

theorem Cfg.write_nchips : (c.write idx val).nchips = if idx.toNat = 5 then val.setWidth 3 else c.nchips := by
  unfold Cfg.write
  split <;> simp_all

theorem Cfg.write_n4op : (c.write idx val).n4op = if idx.toNat = 6 then val.setWidth 6 else c.n4op := by
  unfold Cfg.write
  split <;> simp_all

end Write

/-- What the checks of the chip count pass (R292). -/
theorem bounds_of_cfgCause_nchips {p : Params} {c : Cfg} {idx : BitVec 4} {val : BitVec 8} (hi : idx.toNat = 5)
    (hv : cfgCause p c idx val = none) :
    1 ≤ val.toNat ∧ val.toNat ≤ Config.MAX_CHIPS ∧ c.n4op.toNat ≤ 6 * val.toNat := by
  simp only [cfgCause, hi] at hv
  split at hv
  next => simp at hv
  next hchips =>
    split at hv
    next => simp at hv
    next hcount => omega

/-- What the checks of the pair count pass (R292). -/
theorem bounds_of_cfgCause_n4op {p : Params} {c : Cfg} {idx : BitVec 4} {val : BitVec 8} (hi : idx.toNat = 6)
    (hv : cfgCause p c idx val = none) :
    (p.capChiptype = false → val.toNat = 0) ∧ val.toNat ≤ 6 * c.nchips.toNat := by
  simp only [cfgCause, hi] at hv
  split at hv
  next => simp at hv
  next hcap =>
    split at hv
    next => simp at hv
    next hcount => exact ⟨fun hf => Nat.eq_zero_of_not_pos fun hpos => hcap ⟨hpos, hf⟩, by omega⟩

/-- A CFG that passes its checks leaves a legal configuration. -/
theorem CfgLegal.write {p : Params} {c : Cfg} (h : CfgLegal p c) {idx : BitVec 4} {val : BitVec 8}
    (hv : cfgCause p c idx val = none) : CfgLegal p (c.write idx val) := by
  obtain ⟨hlo, hhi, hn4op, hcap, hfreq, hvol⟩ := h
  rw [CfgLegal, Cfg.write_freqsel, Cfg.write_volsel, Cfg.write_nchips, Cfg.write_n4op]
  by_cases h5 : idx.toNat = 5
  · obtain ⟨hv1, hv6, hvn⟩ := bounds_of_cfgCause_nchips h5 hv
    have hval : (val.setWidth 3).toNat = val.toNat := by
      rw [BitVec.toNat_setWidth]
      exact Nat.mod_eq_of_lt (Nat.lt_of_le_of_lt hv6 (by decide))
    simp only [h5, reduceIte, Nat.reduceEqDiff, hval]
    exact ⟨hv1, hv6, hvn, hcap, hfreq, hvol⟩
  by_cases h6 : idx.toNat = 6
  · obtain ⟨hvcap, hvn⟩ := bounds_of_cfgCause_n4op h6 hv
    have hval : (val.setWidth 6).toNat = val.toNat := by
      rw [BitVec.toNat_setWidth]
      exact Nat.mod_eq_of_lt (Nat.lt_of_le_of_lt hvn (by simp only [Config.MAX_CHIPS] at hhi; omega))
    simp only [h6, reduceIte, Nat.reduceEqDiff, hval]
    exact ⟨hlo, hhi, hvn, fun hf => BitVec.eq_of_toNat_eq (hval.trans (hvcap hf)), hfreq, hvol⟩
  rw [if_neg h5, if_neg h6]
  refine ⟨hlo, hhi, hn4op, hcap, ?_, ?_⟩
  · split
    next h3 => simpa [cfgCause, h3] using hv
    next => exact hfreq
  · split
    next h4 => simpa [cfgCause, h4] using hv
    next => exact hvol

/-! ### Releases -/

theorem Consistent.releaseVoice (h : Consistent s) {c : BitVec 4} (hv : v ∈ s.activeOf c) :
    Consistent (s.releaseVoice v) := by
  rw [s.releaseVoice_eq (h.lt_voices hv)]
  exact (h.released hv).emitAll _

theorem Consistent.mem_activeOf_releaseVoice (h : Consistent s) {c : BitVec 4} (hv : v ∈ s.activeOf c)
    (d : BitVec 4) (w : Nat) : w ∈ (s.releaseVoice v).activeOf d ↔ w ∈ s.activeOf d ∧ w ≠ v := by
  rw [s.releaseVoice_eq (h.lt_voices hv)]
  exact h.mem_activeOf_released hv d w

theorem Consistent.noteOff (h : Consistent s) (ch : BitVec 4) (key : BitVec 7) : Consistent (s.noteOff ch key) := by
  cases hf : s.findNote ch key with
  | none => rwa [s.noteOff_of_none hf]
  | some v =>
    rw [s.noteOff_of_some hf]
    exact h.releaseVoice (List.mem_of_find?_eq_some hf)

/-- Releasing different voices of one list one after the other: those still to come stay in the list. -/
theorem Consistent.foldl_releaseVoice {c : BitVec 4} (l : List Nat) (hl : l.Nodup) (h : Consistent s)
    (hm : ∀ v ∈ l, v ∈ s.activeOf c) : Consistent (l.foldl State.releaseVoice s) := by
  induction l generalizing s with
  | nil => exact h
  | cons v l ih =>
    obtain ⟨hv, hl⟩ := List.nodup_cons.1 hl
    have hact := hm v (List.mem_cons_self ..)
    refine ih hl (h.releaseVoice hact) fun w hw => (h.mem_activeOf_releaseVoice hact c w).2 ?_
    exact ⟨hm w (List.mem_cons_of_mem v hw), fun e => hv (e ▸ hw)⟩

theorem Consistent.allNotesOff (h : Consistent s) (ch : BitVec 4) : Consistent (s.allNotesOff ch) :=
  have ⟨_, _, ⟨_, hnodup, _⟩, _⟩ := h
  h.foldl_releaseVoice _ (hnodup ch) fun _ hv => hv

/-! ### Note starts (41_event_commands.md R151) -/

/-- AllocateOrSteal drops the note, or takes the head of `FREE` in a consistent state: the state itself, or the one
after the forced NOTEOFF (40_voice_pool.md R135, R137). -/
theorem Consistent.allocateOrSteal (h : Consistent s) :
    s.allocateOrSteal = (none, s) ∨ ∃ u v rest, Consistent u ∧ u.cfg = s.cfg ∧ u.free = v :: rest ∧
      s.allocateOrSteal = (some v, u.setFree rest) := by
  unfold State.allocateOrSteal
  split
  next v rest hf => exact .inr ⟨s, v, rest, h, rfl, hf, by rw [State.allocate, hf]⟩
  next hf =>
    split
    next => exact .inl rfl
    next v l ha =>
      have hmem : v ∈ s.activeOf Config.PERC_CH := by rw [ha]; exact List.mem_cons_self ..
      have hfree : (s.releaseVoice v).free = [v] := by rw [State.releaseVoice_free, hf, List.nil_append]
      rw [s.noteOff_of_some (State.findNote_head s ha)]
      refine .inr ⟨s.releaseVoice v, v, [], h.releaseVoice hmem, ?_, hfree, by rw [State.allocate, hfree]⟩
      rw [s.releaseVoice_eq (h.lt_voices hmem)]
      rfl

theorem timbreIndex_lt (ch : BitVec 4) (key prog : BitVec 7) : (timbreIndex ch key prog).toNat < 256 := by
  rw [timbreIndex_toNat]
  have := key.isLt
  have := prog.isLt
  split <;> omega

/-- Binding the head of `FREE` and starting its note keep consistency. -/
theorem Consistent.startNote (h : Consistent s) {rest : List Nat} (hf : s.free = v :: rest) {ch : BitVec 4}
    (hm : ¬ s.cfg.maxchan < ch) {key vel : BitVec 7} (hvel : vel ≠ 0) {r : BitVec 9} (hr : r.toNat < 256) :
    Consistent (((s.setFree rest).bindVoice v ch key vel).startNote v r) := by
  have hlive : v < s.voices.length := by
    obtain ⟨hlegal, ⟨hlen, -⟩, ⟨-, -, hfree, -⟩, -⟩ := h
    rw [hlen]
    exact hlegal.lt_nvMax (hfree v (by rw [hf]; exact List.mem_cons_self ..)).1
  have hbind : ∀ x, ((s.setFree rest).bindVoice v ch key vel).setVoice v x =
      ((s.setFree rest).setVoice v x).setActive ch (s.activeOf ch ++ [v]) := fun x => by
    rw [← (s.setFree rest).setVoice_setVoice v _ x]
    rfl
  have hvoice := (s.setFree rest).bindVoice_voice ch key vel (v := v) hlive v
  rw [if_pos rfl] at hvoice
  obtain ⟨x, u, hu, hx, hstart⟩ := ((s.setFree rest).bindVoice v ch key vel).startNote_eq (v := v) r
    (by simpa [State.bindVoice] using hlive)
  rw [hstart, hu, hbind]
  rw [hvoice] at hx
  exact (h.bound hf hm (by rw [hx]) (by rw [hx]) (by rw [hx]; exact hvel) (by rw [hx]; exact hr) (by rw [hx]; rfl)
    (by rw [hx]; rfl)).emitAll _

theorem Consistent.noteOn (h : Consistent s) (ch : BitVec 4) (key vel : BitVec 7) :
    Consistent (s.noteOn ch key vel) := by
  unfold State.noteOn
  split
  next => exact h
  next hm =>
    split
    next => exact h.noteOff ch key
    next hvel =>
      rcases h.allocateOrSteal with e | ⟨u, v, rest, hu, hcfg, hf, e⟩ <;> rw [e] <;> dsimp only
      · exact h
      · exact hu.startNote hf (hcfg ▸ hm) hvel (timbreIndex_lt ch key _)

/-! ### Controllers, PROG and BEND -/

theorem Consistent.forActive_applyPitch (h : Consistent s) (ch : BitVec 4) :
    Consistent (s.forActive ch fun s v => s.applyPitch v true) := by
  obtain ⟨voices, he, hlen, hv⟩ := s.foldl_applyPitch (s.activeOf ch)
  rw [State.forActive, he]
  refine (h.pitches voices hlen fun w hw => ?_).emitAll _
  rw [hv w hw]
  split
  · exact ⟨_, rfl⟩
  · exact ⟨(s.voice w).pitch, rfl⟩

theorem Consistent.setVolumeField (h : Consistent s) (ch : BitVec 4) (k : Chan) :
    Consistent (s.setVolumeField ch k) := by
  rw [State.setVolumeField, State.forActive_applyVolume]
  exact (h.setChan ch k).emitAll _

theorem Consistent.rebend (h : Consistent s) (ch : BitVec 4) (k : Chan) : Consistent (s.rebend ch k) :=
  (h.setChan ch _).forActive_applyPitch ch

theorem Consistent.softReset (h : Consistent s) : Consistent s.softReset := by
  obtain ⟨hlegal, -⟩ := h
  rw [State.softReset_eq]
  exact .of_stateReset _ hlegal

theorem Consistent.control (h : Consistent s) (ch : BitVec 4) (ctl : Controller) (val : BitVec 7) :
    Consistent (s.control ch ctl val) := by
  cases ctl with
  | volume | expression | brightness => exact h.setVolumeField ch _
  | pan =>
    rw [State.control, State.forActive_applyPan]
    exact (h.setChan ch _).emitAll _
  | detune => exact (h.setChan ch _).forActive_applyPitch ch
  | allNotesOff => exact h.allNotesOff ch
  | resetAll => exact h.softReset
  | rpnMsb | rpnLsb => exact h.setChan ch _
  | dataEntryMsb | dataEntryLsb =>
    unfold State.control
    dsimp only
    split
    · exact h.rebend ch _
    · exact h

theorem Consistent.controlChange (h : Consistent s) (ch : BitVec 4) (ctl val : BitVec 7) :
    Consistent (s.controlChange ch ctl val) := by
  unfold State.controlChange
  split
  · exact h.control ch _ val
  · exact h

/-! ### System commands and pin reset -/

theorem Consistent.fullReset (s : State) (h : CfgLegal s.hw s.cfg) : Consistent s.fullReset := by
  rw [State.fullReset_eq]
  exact .of_stateReset _ h

theorem Consistent.configure (h : Consistent s) (idx : BitVec 4) (val : BitVec 8) (w : Word) :
    Consistent (s.configure idx val w) := by
  unfold State.configure
  split
  next k _ =>
    obtain ⟨e, c, m, ht⟩ := s.raiseMisconfig_eq k w
    rw [ht]
    exact h
  next hnone =>
    obtain ⟨hlegal, -⟩ := h
    exact .fullReset _ (hlegal.write hnone)

/-- Every command keeps the invariants of the voice pool. -/
theorem Consistent.exec {i : Instr} {t : State} (hs : Consistent s) (h : exec i s = .next t) : Consistent t := by
  cases i with
  | nop | reserved3 | reserved4 | reserved5 | reserved6 | reserved7 | reservedA | reservedD => cases h; exact hs
  | cfg idx val z => cases h; exact hs.configure idx val _
  | tbwr addr data z =>
    cases h
    rw [State.timbreWrite_eq]
    exact hs
  | noteoff ch key vel z => cases h; exact gated_keeps hs (hs.noteOff ch _)
  | noteon ch key vel z => cases h; exact gated_keeps hs (hs.noteOn ch _ _)
  | ctrl ch ctl val z => cases h; exact gated_keeps hs (hs.controlChange ch _ _)
  | prog ch prog z => cases h; exact gated_keeps hs (hs.setChan ch _)
  | bend ch lsb msb z => cases h; exact gated_keeps hs (hs.rebend ch _)
  | reset z =>
    cases h
    obtain ⟨hlegal, -⟩ := hs
    exact .fullReset s hlegal

/-- Settles O47: every command keeps the invariants, a full reset on the legal configuration it keeps or writes, and
pin reset sets them up on the pin-reset configuration, which is legal in a well-formed build. -/
theorem stepKeepsConsistent : Obligations.StepKeepsConsistent := by
  intro s t hwf hc h
  have hstep := step_keeps (Q := fun s => s.hw.wf = true ∧ Consistent s) (fun _ _ h => h)
    (fun s hs => ⟨hs.1, .of_stateReset _ (CfgLegal.pinReset hs.1)⟩)
    (fun i s t hs h => ⟨exec_hw h ▸ hs.1, hs.2.exec h⟩) ⟨hwf, hc⟩ h
  exact hstep.2

end Sys2Proof.Machine
end

section
/-! The last write that `SHADOW` holds, the notes that NOTEON does not start, and the state after pin reset. -/

namespace Sys2Proof.Machine

open Sys2Proof

variable {s : State}

/-! ### `SHADOW` as the last write (10_state.md R45) -/

theorem shadowAfter_concat (m : Memory) (items : List OutItem) (x : OutItem) :
    shadowAfter m (items ++ [x]) = shadowStep (shadowAfter m items) x := by
  rw [shadowAfter, List.foldl_append]
  rfl

theorem Memory.wf_shadowStep {m : Memory} (h : Memory.wf shadowUnlisted m = true) (x : OutItem) :
    Memory.wf shadowUnlisted (shadowStep m x) = true := by
  unfold shadowStep
  split
  · exact Memory.wf_write _ _ h
  · exact h
  · rfl

theorem Memory.wf_shadowAfter {m : Memory} (h : Memory.wf shadowUnlisted m = true) (items : List OutItem) :
    Memory.wf shadowUnlisted (shadowAfter m items) = true :=
  List.foldlRecOn (motive := fun m => Memory.wf shadowUnlisted m = true) items _ h fun _ hm x _ =>
    Memory.wf_shadowStep hm x

/-- The last deciding item of a longer sequence is its last item, if that decides, else the one before. -/
theorem lastWrite_concat (a : BitVec 16) (items : List OutItem) (x : OutItem) :
    lastWrite a (items ++ [x]) =
      if x.kind = .rst ∨ x.kind = .reg ∧ x.addr = a then some x else lastWrite a items := by
  rw [lastWrite, List.reverse_append, List.reverse_singleton, List.singleton_append, List.find?_cons]
  split
  next h => rw [if_pos (by simpa using h)]
  next h => rw [if_neg (by simpa using h)]; rfl

/-- What one item does to the byte at `a`. -/
theorem read_shadowStep {m : Memory} (h : Memory.wf shadowUnlisted m = true) (x : OutItem) (a : BitVec 16) :
    Memory.read shadowUnlisted (shadowStep m x) a.toNat =
      if x.kind = .rst ∨ x.kind = .reg ∧ x.addr = a then some (if x.kind = .reg then x.data else 0)
      else Memory.read shadowUnlisted m a.toNat := by
  unfold shadowStep
  cases hk : x.kind with
  | reg =>
    by_cases ha : x.addr = a
    · simp [ha, Memory.read_write_self x.data h]
    · have hne : a.toNat ≠ x.addr.toNat := fun e => ha (BitVec.eq_of_toNat_eq e.symm)
      simp [ha, Memory.read_write_of_ne x.data hne]
  | pan => simp
  | rst => simp [Memory.read]

/-- Settles O44, by induction on the items from the end: the last one decides the byte or leaves it. -/
theorem shadowHoldsLastWrite : Obligations.ShadowHoldsLastWrite := by
  intro s items a hm
  obtain ⟨hwf, -⟩ := hm
  induction items using List.reverseRecOn with
  | nil => rfl
  | append_singleton items x ih =>
    simp only [State.shadowByte] at ih ⊢
    rw [shadowAfter_concat, read_shadowStep (Memory.wf_shadowAfter hwf items), lastWrite_concat]
    split
    · rfl
    · exact ih

/-! ### Notes that NOTEON does not start -/

/-- A channel above `MAXCHAN` is ignored (10_state.md R25). -/
theorem State.noteOn_of_maxchan_lt {ch : BitVec 4} (h : s.cfg.maxchan < ch) (key vel : BitVec 7) :
    s.noteOn ch key vel = s := by
  rw [State.noteOn, if_pos h]

/-- With no voice to take or to steal AllocateOrSteal answers `Exhausted` (40_voice_pool.md R137). -/
theorem State.allocateOrSteal_of_exhausted (hf : s.free = []) (ha : s.activeOf Config.PERC_CH = []) :
    s.allocateOrSteal = (none, s) := by
  simp only [State.allocateOrSteal, hf, ha]

/-- A note without a voice is dropped (R137). -/
theorem State.noteOn_of_exhausted (hf : s.free = []) (ha : s.activeOf Config.PERC_CH = []) (ch : BitVec 4)
    (key : BitVec 7) {vel : BitVec 7} (hv : vel ≠ 0) : s.noteOn ch key vel = s := by
  rw [State.noteOn, if_neg hv, State.allocateOrSteal_of_exhausted hf ha]
  exact ite_self s

/-- Settles O20: where the gates let the NOTEON through, its effect is none. -/
theorem noteOnIgnoredOrDropped : Obligations.NoteOnIgnoredOrDropped := by
  intro s ch key vel z
  refine ⟨fun hm => ?_, fun hv hf ha => ?_⟩ <;> rw [exec_noteon]
  · rw [gated_keeps (Q := (· = s)) rfl (State.noteOn_of_maxchan_lt hm _ _)]
  · rcases gated_cases s _ fun s => s.noteOn ch (seven key) (seven vel) with e | ⟨-, hb, e⟩ <;> rw [e]
    have hle : vel.toNat ≤ 127 := (isSeven_iff vel).1 (Bool.and_eq_true_iff.1 hb).2
    have hpos : 1 ≤ vel.toNat := Nat.pos_of_ne_zero fun h0 => hv (BitVec.eq_of_toNat_eq h0)
    rw [State.noteOn_of_exhausted hf ha ch _ (seven_ne_zero hle hpos)]

/-! ### The state after pin reset -/

/-- The state after pin reset is the outcome of a state reset (70_reset_and_hazards.md R350). -/
theorem State.resetOf_eq_stateReset (p : Params) : State.resetOf p = (State.resetOf p).stateReset := rfl

/-- Settles O51: a state reset on a legal configuration is consistent and has the default channels; both memories are
empty, and no error stands. -/
theorem resetHasInvariants : Obligations.ResetHasInvariants := by
  refine ⟨fun p hp => ⟨?_, ?_, ⟨rfl, rfl, rfl, rfl⟩, ⟨rfl, rfl⟩⟩, by decide, rfl⟩
  · rw [State.resetOf_eq_stateReset]
    exact .of_stateReset _ (CfgLegal.pinReset hp)
  · rw [State.resetOf_eq_stateReset]
    exact .stateReset _

end Sys2Proof.Machine
end

section
/-! The canonical form of `SHADOW` and of the timbre RAM, through every step. -/

namespace Sys2Proof.Machine

open Sys2Proof

variable {s t : State}

/-- An item's address has 16 bits (20_memory.md R78). -/
theorem Memory.below_shadowStep {m : Memory} (h : Memory.below 65536 m = true) (x : OutItem) :
    Memory.below 65536 (shadowStep m x) = true := by
  unfold shadowStep
  split
  · exact Memory.below_write _ x.addr.isLt h
  · exact h
  · rfl

theorem Memory.below_shadowAfter {m : Memory} (h : Memory.below 65536 m = true) (items : List OutItem) :
    Memory.below 65536 (shadowAfter m items) = true :=
  List.foldlRecOn (motive := fun m => Memory.below 65536 m = true) items _ h fun _ hm x _ =>
    Memory.below_shadowStep hm x

/-- The form of both memories does not depend on the rest of the state; `SHADOW` may have followed any items. -/
theorem MemoryOk.of_shadowAfter (h : MemoryOk s) {items : List OutItem} (hshadow : t.shadow = shadowAfter s.shadow items)
    (hram : t.ram = s.ram) : MemoryOk t := by
  obtain ⟨hwf, hbelow, hramOk⟩ := h
  rw [MemoryOk, hshadow, hram]
  exact ⟨Memory.wf_shadowAfter hwf items, Memory.below_shadowAfter hbelow items, hramOk⟩

/-- TBWR writes below `TBYTES` or not at all (45_backend_and_system_commands.md R296). -/
theorem MemoryOk.timbreWrite (h : MemoryOk s) (addr : BitVec 12) (data : Byte) :
    MemoryOk (s.timbreWrite addr data) := by
  unfold State.timbreWrite
  split
  next hlt =>
    obtain ⟨hwf, hbelow, hramwf, hrambelow⟩ := h
    exact ⟨hwf, hbelow, Memory.wf_write _ data hramwf, Memory.below_write data hlt hrambelow⟩
  next => exact h

/-- TBWR keeps the form of the timbre RAM; every other command keeps the RAM itself, and its `SHADOW` follows its
items. -/
theorem MemoryOk.exec {i : Instr} (hs : MemoryOk s) (h : exec i s = .next t) : MemoryOk t := by
  by_cases hi : ∃ addr data z, i = .tbwr addr data z
  · obtain ⟨addr, data, z, rfl⟩ := hi
    cases h
    exact hs.timbreWrite addr data
  · obtain ⟨items, -, hshadow⟩ := shadowFollowsOutput i s t h
    obtain ⟨-, -, -, hram⟩ := whoWritesWhat i s t h
    exact hs.of_shadowAfter hshadow (hram fun addr data z e => hi ⟨addr, data, z, e⟩)

/-- Pin reset empties `SHADOW` and keeps the timbre RAM (70_reset_and_hazards.md R350). -/
theorem MemoryOk.pinReset (h : MemoryOk s) : MemoryOk s.pinReset := by
  obtain ⟨-, -, hramOk⟩ := h
  exact ⟨rfl, rfl, hramOk⟩

/-- Settles O49: a command changes `SHADOW` by its items and the timbre RAM by TBWR alone, and pin reset empties the
one and keeps the other. -/
theorem stepKeepsMemoryForm : Obligations.StepKeepsMemoryForm := fun _ _ =>
  step_keeps (fun _ _ h => h) (fun _ => MemoryOk.pinReset) fun _ _ _ => MemoryOk.exec

end Sys2Proof.Machine
end

section
/-! The command word as a number: its fields, its formats, and the commands they spell. -/

namespace Sys2Proof

/-! ### The fields of a word, as numbers (30_encoding.md R101) -/

section Fields

variable (w : Word)

theorem Word.toNat_field (start len : Nat) : (w.extractLsb' start len).toNat = w.toNat / 2 ^ start % 2 ^ len := by
  rw [BitVec.extractLsb'_toNat, Nat.shiftRight_eq_div_pow]

theorem Word.toNat_op : (Word.op w).toNat = w.toNat / 2 ^ 28 % 2 ^ 4 := Word.toNat_field w 28 4
theorem Word.toNat_ch : (Word.ch w).toNat = w.toNat / 2 ^ 24 % 2 ^ 4 := Word.toNat_field w 24 4
theorem Word.toNat_a : (Word.a w).toNat = w.toNat / 2 ^ 16 % 2 ^ 8 := Word.toNat_field w 16 8
theorem Word.toNat_b : (Word.b w).toNat = w.toNat / 2 ^ 8 % 2 ^ 8 := Word.toNat_field w 8 8
theorem Word.toNat_ta : (Word.ta w).toNat = w.toNat / 2 ^ 16 % 2 ^ 12 := Word.toNat_field w 16 12
theorem Word.toNat_z : (Word.z w).toNat = w.toNat % 2 ^ 8 := by simp [Word.z]
theorem Word.toNat_z16 : (Word.z16 w).toNat = w.toNat % 2 ^ 16 := by simp [Word.z16]
theorem Word.toNat_z28 : (Word.z28 w).toNat = w.toNat % 2 ^ 28 := by simp [Word.z28]

end Fields

/-! ### The words of each format, as numbers (R102 to R105) -/

section Formats

variable (op ch : BitVec 4) (a b z : BitVec 8) (ta : BitVec 12) (z16 : BitVec 16) (z28 : BitVec 28)

theorem toNat_formatE : (formatE op ch a b z).toNat =
    op.toNat * 2 ^ 28 + ch.toNat * 2 ^ 24 + a.toNat * 2 ^ 16 + b.toNat * 2 ^ 8 + z.toNat := by
  have h : (formatE op ch a b z).toNat = (op ++ ch ++ a ++ b).toNat * 2 ^ 8 + z.toNat := Machine.toNat_append_sum _ z
  rw [h]
  simp only [Machine.toNat_append_sum]
  omega

theorem toNat_formatC : (formatC op ch a z16).toNat =
    op.toNat * 2 ^ 28 + ch.toNat * 2 ^ 24 + a.toNat * 2 ^ 16 + z16.toNat := by
  have h : (formatC op ch a z16).toNat = (op ++ ch ++ a).toNat * 2 ^ 16 + z16.toNat := Machine.toNat_append_sum _ z16
  rw [h]
  simp only [Machine.toNat_append_sum]
  omega

theorem toNat_formatT : (formatT op ta b z).toNat =
    op.toNat * 2 ^ 28 + ta.toNat * 2 ^ 16 + b.toNat * 2 ^ 8 + z.toNat := by
  have h : (formatT op ta b z).toNat = (op ++ ta ++ b).toNat * 2 ^ 8 + z.toNat := Machine.toNat_append_sum _ z
  rw [h]
  simp only [Machine.toNat_append_sum]
  omega

theorem toNat_formatZ : (formatZ op z28).toNat = op.toNat * 2 ^ 28 + z28.toNat := Machine.toNat_append_sum op z28

/-! ### What the decoder reads from a word of each format -/

@[simp] theorem fields_formatE :
    Word.op (formatE op ch a b z) = op ∧ Word.ch (formatE op ch a b z) = ch ∧ Word.a (formatE op ch a b z) = a ∧
      Word.b (formatE op ch a b z) = b ∧ Word.z (formatE op ch a b z) = z := by
  simp only [← BitVec.toNat_inj, Word.toNat_op, Word.toNat_ch, Word.toNat_a, Word.toNat_b, Word.toNat_z, toNat_formatE]
  omega

@[simp] theorem fields_formatC :
    Word.op (formatC op ch a z16) = op ∧ Word.ch (formatC op ch a z16) = ch ∧ Word.a (formatC op ch a z16) = a ∧
      Word.z16 (formatC op ch a z16) = z16 := by
  simp only [← BitVec.toNat_inj, Word.toNat_op, Word.toNat_ch, Word.toNat_a, Word.toNat_z16, toNat_formatC]
  omega

@[simp] theorem fields_formatT :
    Word.op (formatT op ta b z) = op ∧ Word.ta (formatT op ta b z) = ta ∧ Word.b (formatT op ta b z) = b ∧
      Word.z (formatT op ta b z) = z := by
  simp only [← BitVec.toNat_inj, Word.toNat_op, Word.toNat_ta, Word.toNat_b, Word.toNat_z, toNat_formatT]
  omega

@[simp] theorem fields_formatZ : Word.op (formatZ op z28) = op ∧ Word.z28 (formatZ op z28) = z28 := by
  simp only [← BitVec.toNat_inj, Word.toNat_op, Word.toNat_z28, toNat_formatZ]
  omega

end Formats

/-- Settles O1, format by format: the opcode of the word picks the command's own row of the map, and the fields read
back what the format put there. -/
theorem decodeOfEncode : Obligations.DecodeOfEncode := by
  intro i
  cases i with
  | nop z | reserved3 z | reserved4 z | reserved5 z | reserved6 z | reserved7 z | reservedA z | reservedD z | reset z =>
    simp [encode, decode]
  | cfg ch a z | prog ch a z => simp [encode, decode]
  | tbwr ta b z => simp [encode, decode]
  | noteoff ch a b z | noteon ch a b z | ctrl ch a b z | bend ch a b z => simp [encode, decode]

/-! ### A word from its fields -/

section Words

variable {w : Word} {op : BitVec 4} (h : (Word.op w).toNat = op.toNat)

include h

theorem formatE_fields : formatE op (Word.ch w) (Word.a w) (Word.b w) (Word.z w) = w := by
  rw [Word.toNat_op] at h
  rw [← BitVec.toNat_inj, toNat_formatE, Word.toNat_ch, Word.toNat_a, Word.toNat_b, Word.toNat_z]
  omega

theorem formatC_fields : formatC op (Word.ch w) (Word.a w) (Word.z16 w) = w := by
  rw [Word.toNat_op] at h
  rw [← BitVec.toNat_inj, toNat_formatC, Word.toNat_ch, Word.toNat_a, Word.toNat_z16]
  omega

theorem formatT_fields : formatT op (Word.ta w) (Word.b w) (Word.z w) = w := by
  rw [Word.toNat_op] at h
  rw [← BitVec.toNat_inj, toNat_formatT, Word.toNat_ta, Word.toNat_b, Word.toNat_z]
  omega

theorem formatZ_fields : formatZ op (Word.z28 w) = w := by
  rw [Word.toNat_op] at h
  rw [← BitVec.toNat_inj, toNat_formatZ, Word.toNat_z28]
  omega

end Words

/-- Settles O2: whatever row of the opcode map the word takes, the row's format puts its fields together again. -/
theorem encodeOfDecode : Obligations.EncodeOfDecode := by
  intro w
  unfold decode
  split
  -- CFG and PROG
  case h_2 h | h_13 h => exact formatC_fields h
  -- TBWR
  case h_3 h => exact formatT_fields h
  -- NOTEOFF, NOTEON, CTRL and BEND
  case h_9 h | h_10 h | h_12 h | h_15 h => exact formatE_fields h
  -- RESET, the opcode that is left
  case h_16 =>
    have hop : (Word.op w).toNat = 0xF := by
      have hlt := (Word.op w).isLt
      simp only [imp_false] at *
      omega
    exact formatZ_fields (op := 0xF) hop
  -- NOP and the reserved opcodes
  all_goals
    rename_i h
    exact formatZ_fields h

/-! ### The assembler (30_encoding.md R116, R117) -/

theorem Asm.timbre_getElem? (r : BitVec 8) (bytes : List (BitVec 8)) (k : Nat) :
    (Asm.timbre r bytes)[k]? = bytes[k]?.map fun x => .tbwr (BitVec.ofNat 12 (13 * r.toNat + k)) x 0 := by
  simp [Asm.timbre, List.getElem?_zipIdx, Function.comp_def]

/-- The address of byte `k` of a record fits the twelve bits of TBWR (20_memory.md R70). -/
theorem toNat_timbreAddress (r : BitVec 8) {k : Nat} (hk : k < 13) :
    (BitVec.ofNat 12 (13 * r.toNat + k)).toNat = 13 * r.toNat + k := by
  rw [BitVec.toNat_ofNat]
  omega

/-- BEND14 splits its operand into seven low and seven high bits. -/
theorem toNat_bend14_halves (x : BitVec 14) :
    ((x.extractLsb' 0 7).setWidth 8).toNat = x.toNat % 128 ∧ ((x.extractLsb' 7 7).setWidth 8).toNat = x.toNat / 128 := by
  simp only [BitVec.toNat_setWidth, BitVec.extractLsb'_toNat, Nat.shiftRight_eq_div_pow]
  omega

/-- Settles O3: a word is the sum of its fields at their places, and each pseudo-instruction is a list of commands whose
words are such sums. -/
theorem assemblerWords : Obligations.AssemblerWords := by
  refine ⟨fun ch idx addr a b => ?_, fun ch a b x => ?_, fun r bytes hlen => ⟨?_, fun k x hx => ?_⟩⟩
  · exact ⟨rfl, toNat_formatC 1 idx a 0, toNat_formatT 2 b 0 addr, toNat_formatE 8 ch a b 0, toNat_formatE 9 ch a b 0,
      toNat_formatE 0xB ch a b 0, toNat_formatC 0xC ch a 0, toNat_formatE 0xE ch a b 0, rfl⟩
  · obtain ⟨hlo, hhi⟩ := toNat_bend14_halves x
    simp only [Asm.vol, Asm.pan, Asm.expr, Asm.bright, Asm.detune, Asm.alloff, Asm.rstctl, Asm.bendrange, Asm.bend14,
      List.map, encode, toNat_formatE, hlo, hhi]
    simp
  · simp [Asm.timbre, hlen]
  · obtain ⟨hk, -⟩ := List.getElem?_eq_some_iff.1 hx
    rw [Asm.timbre_getElem?, hx]
    simp only [Option.map_some, encode, toNat_formatT, toNat_timbreAddress r (hlen ▸ hk)]
    simp

end Sys2Proof
end

section
/-! Commands that do nothing, and that every command completes. -/

namespace Sys2Proof.Machine

open Sys2Proof

/-- Every command has a next state: no arm of `exec` faults or refuses (60_exceptions.md R327). -/
theorem exec_eq_next (i : Instr) (s : State) : ∃ t, exec i s = .next t := by
  cases i <;> exact ⟨_, rfl⟩

/-- Settles O6, by what the host does next. -/
theorem everyStepCompletes : Obligations.EveryStepCompletes := by
  intro s
  cases hi : s.inputs with
  | nil => exact ⟨s, step_of_nil s hi⟩
  | cons x rest =>
    cases x with
    | rstPulse => exact ⟨_, step_of_rstPulse s hi⟩
    | command w =>
      rw [step_of_command s hi]
      exact exec_eq_next _ _

/-- A word whose opcode is NOP's or a reserved one does nothing, whatever its other bits (30_encoding.md R109). -/
theorem exec_decode_of_nop_or_reserved {w : Word} (s : State)
    (hop : (Word.op w).toNat ∈ [0x0, 0x3, 0x4, 0x5, 0x6, 0x7, 0xA, 0xD]) : exec (decode w) s = .next s := by
  simp only [List.mem_cons, List.not_mem_nil, or_false] at hop
  rcases hop with h | h | h | h | h | h | h | h <;> simp [decode, h]

/-- Settles O8: `exec` of these commands is the state itself, and the words with their opcodes decode to them. -/
theorem nopAndReservedDoNothing : Obligations.NopAndReservedDoNothing := by
  refine ⟨fun s z => ?_, fun s w rest hop => ?_⟩
  · simp
  · have hop' : (Word.op w).toNat ∈ [0x0, 0x3, 0x4, 0x5, 0x6, 0x7, 0xA, 0xD] := by
      rw [Word.toNat_op]
      rwa [Nat.mod_eq_of_lt (by omega)]
    refine ⟨exec_decode_of_nop_or_reserved s hop', fun hi => ?_⟩
    rw [step_of_command s hi, exec_decode_of_nop_or_reserved _ hop']

/-! ### The seven-bit check (30_encoding.md R107) -/

theorem isSeven_eq_false {x : Byte} (h : 127 < x.toNat) : isSeven x = false := by
  rw [isSeven, decide_eq_false_iff_not]
  omega

theorem isSeven_and_eq_false {a b : Byte} (h : 127 < a.toNat ∨ 127 < b.toNat) : (isSeven a && isSeven b) = false := by
  rw [Bool.and_eq_false_iff]
  exact h.imp isSeven_eq_false isSeven_eq_false

/-- Settles O16: the check fails, so the gate leaves the state; and the meaning of PROG does not read its `B`. -/
theorem sevenBitCheck : Obligations.SevenBitCheck := by
  intro s ch a b z z' z''
  refine ⟨fun h => ?_, fun h => ?_, rfl⟩
  · have hbytes := isSeven_and_eq_false h
    rw [exec_noteoff, exec_noteon, exec_ctrl, exec_bend]
    simp only [gated_of_bytes s hbytes, and_self]
  · rw [exec_prog, gated_of_bytes s (isSeven_eq_false h)]

/-! ### The forms of output items (30_encoding.md R114) -/

theorem OutItem.toNat_bits (x : OutItem) :
    x.bits.toNat = x.kind.code.toNat * 2 ^ 24 + x.addr.toNat * 2 ^ 8 + x.data.toNat := by
  have h : x.bits.toNat = (x.kind.code ++ x.addr).toNat * 2 ^ 8 + x.data.toNat := toNat_append_sum _ x.data
  rw [h, toNat_append_sum]
  omega

/-- What the spec asks of an item that a command on `s` emits: an `RST` item's address and data are 0, and a `PAN` item
holds a pan and addresses some voice's feedback/connection register (R114, 44_register_mapper.md R269). -/
def OutItem.FormOk (s : State) (x : OutItem) : Prop :=
  (x.kind = .rst → x.addr = 0 ∧ x.data = 0) ∧
  (x.kind = .pan → x.data.toNat ≤ 127 ∧ ∃ (v : Nat) (o : BitVec 9), s.mapPan v = some o ∧
    x.addr = outAddr (v / s.hw.spc) (s.hw.banks.fbconn.toNat + o.toNat))

variable {s : State} {x : OutItem}

/-- Nothing is asked of a register write. -/
theorem OutItem.FormOk.of_reg (h : x.kind = .reg) : x.FormOk s :=
  ⟨fun hr => absurd (h.symm.trans hr) nofun, fun hp => absurd (h.symm.trans hp) nofun⟩

theorem kind_of_mem_regItem {v : Nat} {b : BitVec 9} {o : Option (BitVec 9)} {d : Byte} (h : x ∈ s.regItem v b o d) :
    x.kind = .reg := by
  cases o with
  | none => simp [State.regItem] at h
  | some y => rw [List.mem_singleton.1 h]

theorem kind_of_mem_initItems {p : Params} {c : Cfg} {chip : Nat} (h : x ∈ initItems p c chip) : x.kind = .reg := by
  rw [initItems, List.mem_append] at h
  rcases h with h | h
  · split at h
    · simp only [List.mem_cons, List.not_mem_nil, or_false] at h
      rcases h with rfl | rfl <;> rfl
    · rw [List.mem_singleton.1 h]
  · rw [List.mem_singleton.1 h]

/-- A full reset emits one `RST` item and register writes (70_reset_and_hazards.md R351). -/
theorem fullResetItems_formOk (s : State) (p : Params) (c : Cfg) : ∀ x, x ∈ fullResetItems p c → x.FormOk s := by
  intro x hx
  rw [fullResetItems, List.mem_cons] at hx
  rcases hx with rfl | hx
  · exact ⟨fun _ => ⟨rfl, rfl⟩, nofun⟩
  · obtain ⟨chip, -, hx⟩ := List.mem_flatMap.1 hx
    exact .of_reg (kind_of_mem_initItems hx)

theorem toNat_pan_le (pan : BitVec 7) : (pan.setWidth 8).toNat ≤ 127 := by
  rw [BitVec.toNat_setWidth]
  omega

/-- Every item an event can emit has its form. -/
theorem itemsHave_formOk (s : State) : ItemsHave (OutItem.FormOk s) s := fun v _ =>
  { reg := fun _ _ hx => .of_reg (kind_of_mem_regItem hx)
    pan := fun _ o ho pan => ⟨nofun, fun _ => ⟨toNat_pan_le pan, v, o, ho, rfl⟩⟩ }

/-- Settles O60: an event emits register writes and pan items of its voices, a trap and a TBWR nothing, and a full reset
its `RST` and register writes. -/
theorem outputItemForms : Obligations.OutputItemForms := by
  refine ⟨fun x => ?_, fun i s t h => ?_⟩
  · rw [x.toNat_bits, Nat.add_assoc, Nat.add_comm]
    cases x.kind <;> rfl
  · rcases exec_cases h with hf | ⟨e, c, m, r, rfl⟩ | ⟨c, rfl⟩
    · obtain ⟨items, ho, -, hx⟩ := (hf _ (itemsHave_formOk s)).output
      exact ⟨items, ho, hx⟩
    · exact ⟨[], (List.append_nil _).symm, by simp⟩
    · exact ⟨_, State.fullReset_out _, fullResetItems_formOk s s.hw c⟩

end Sys2Proof.Machine
end

section
/-! A release and a note start, said once, and the NOTEOFF and the steal that are made of them. -/

namespace Sys2Proof.Machine

open Sys2Proof

variable {s : State} {v : Nat}

/-! ### NOTEOFF (41_event_commands.md R160) -/

/-- The active lists after a release: its channel's list loses the voice (40_voice_pool.md R134). -/
theorem Consistent.activeOf_releaseVoice (h : Consistent s) {c : BitVec 4} (hv : v ∈ s.activeOf c) (d : BitVec 4) :
    (s.releaseVoice v).activeOf d = if d = c then (s.activeOf c).erase v else s.activeOf d := by
  rw [s.releaseVoice_eq (h.lt_voices hv), State.emitAll_activeOf, State.released, h.chanIndex hv,
    State.setFree_activeOf, State.activeOf_setActive, State.setVoice_activeOf]

/-- The voice NOTEOFF finds is the first of the channel's list with the key. -/
theorem State.findNote_of_first {ch : BitVec 4} {key : BitVec 7} {before after : List Nat}
    (ha : s.activeOf ch = before ++ v :: after) (hkey : (s.voice v).key = key)
    (hbefore : ∀ w ∈ before, (s.voice w).key ≠ key) : s.findNote ch key = some v := by
  rw [State.findNote, ha, List.find?_eq_some_iff_append]
  exact ⟨by simp [hkey], before, after, rfl, by simpa using hbefore⟩

/-- A 7-bit quantity is a data byte's where the two are the same number. -/
theorem eq_seven_iff {x : Byte} (h : x.toNat ≤ 127) (k : BitVec 7) : k = seven x ↔ k.toNat = x.toNat := by
  rw [← BitVec.toNat_inj, toNat_seven h]

/-- Settles O22: the note found is the first match, and a release does the rest; no voice stands twice in a list, so
the voice released is gone from it. -/
theorem noteOffReleasesFirstMatch : Obligations.NoteOffReleasesFirstMatch := by
  intro s ch key vel z before after v hc he hk hvel ha hkey hbefore
  have hmem : v ∈ s.activeOf ch := by rw [ha]; simp
  have hlt := hc.lt_voices hmem
  have hfind : s.findNote ch (seven key) = some v :=
    State.findNote_of_first ha ((eq_seven_iff hk _).2 hkey) fun w hw e => hbefore w hw ((eq_seven_iff hk _).1 e)
  have herase : (s.activeOf ch).erase v = before ++ after := by
    obtain ⟨-, -, ⟨-, hnodup, -⟩, -⟩ := hc
    have hnot : v ∉ before := fun hb =>
      (List.nodup_append.1 (ha ▸ hnodup ch)).2.2 v hb v (List.mem_cons_self ..) rfl
    rw [ha, List.erase_append_right _ hnot, List.erase_cons_head]
  have hact := hc.activeOf_releaseVoice hmem
  refine ⟨s.releaseVoice v, ?_, ?_, fun c hne => ?_, s.releaseVoice_free v, ?_⟩
  · rw [exec_noteoff_open s he hk hvel, s.noteOff_of_some hfind]
  · rw [hact, if_pos rfl, herase]
  · rw [hact, if_neg hne]
  · have hvoice := s.released_voice hlt
    rw [s.releaseVoice_eq hlt]
    exact ⟨by simp [hvoice], fun w hw => by simp [hvoice, hw], rfl, rfl, rfl⟩

/-! ### NOTEON (R151) -/

/-- `t` is `s` with voice `v` bound to a note of channel `ch` and the note started with record `r`: the voice is at the
tail of the channel's list, and the items of the four phases have gone out, each as `t` gives it
(44_register_mapper.md R270). -/
structure NoteStarted (s : State) (v : Nat) (ch : BitVec 4) (key vel : BitVec 7) (r : BitVec 9) (t : State) :
    Prop where
  active : ∀ c, t.activeOf c = if c = ch then s.activeOf ch ++ [v] else s.activeOf c
  voice  : t.voice v =
    { s.voice v with
      owner := ch.setWidth 5, key := key, vel := vel, on := true, timbre := r, pitch := t.lookupPitch v }
  others : ∀ w, w ≠ v → t.voice w = s.voice w
  output : ∃ items, t.out = s.out ++ items ∧ t.shadow = shadowAfter s.shadow items ∧
    items =
      (if (s.voice v).timbre = r then [] else t.timbrePhase v) ++ t.volumePhase v ++ t.pitchPhase v ++ t.panPhase v
  frame  : t = { s with voices := t.voices, active := t.active, out := t.out, shadow := t.shadow }

/-- Everything the binding and the start of a note do, on a voice of the table. -/
theorem noteStarted_bindVoice_startNote (hv : v < s.voices.length) (ch : BitVec 4) (key vel : BitVec 7)
    (r : BitVec 9) : NoteStarted s v ch key vel r ((s.bindVoice v ch key vel).startNote v r) := by
  obtain ⟨x, t, ht, hx, hstart⟩ := (s.bindVoice v ch key vel).startNote_eq r
    (by simpa [State.bindVoice] using hv)
  have hbound := s.bindVoice_voice ch key vel hv
  have hvoice : ∀ w, t.voice w = if w = v then x else (s.bindVoice v ch key vel).voice w := fun w => by
    rw [ht, State.emitAll_voice]
    split
    next h => rw [h, State.voice_setVoice_self _ x (by simpa [State.bindVoice] using hv)]
    next h => rw [State.voice_setVoice_of_ne _ x h]
  have hframe : ∀ items, t = ((s.bindVoice v ch key vel).setVoice v x).emitAll items →
      t = { s with voices := t.voices, active := t.active, out := t.out, shadow := t.shadow } := fun _ h => by
    rw [h]
    rfl
  rw [hbound v, if_pos rfl] at hx ht
  rw [hstart]
  refine ⟨fun c => ?_, ?_, fun w hw => ?_, ⟨_, congrArg State.out ht, congrArg State.shadow ht, rfl⟩, hframe _ ht⟩
  · rw [ht, State.emitAll_activeOf, State.setVoice_activeOf, State.bindVoice, State.activeOf_setActive]
    rfl
  · rw [hvoice v, if_pos rfl, hx]
  · rw [hvoice w, if_neg hw, hbound w, if_neg hw]

/-- With `FREE` empty AllocateOrSteal releases the head of the percussion channel's list and takes it from `FREE` again
(40_voice_pool.md R135, R136). -/
theorem State.allocateOrSteal_of_steal {h : Nat} {rest : List Nat} (hf : s.free = [])
    (ha : s.activeOf Config.PERC_CH = h :: rest) :
    s.allocateOrSteal = (some h, (s.releaseVoice h).setFree []) := by
  have hfree : (s.releaseVoice h).free = [h] := by rw [State.releaseVoice_free, hf, List.nil_append]
  simp only [State.allocateOrSteal, hf, ha, s.noteOff_of_some (State.findNote_head s ha), State.allocate, hfree]

/-- NOTEON starts the note on the voice it gets (41_event_commands.md R151, R153). -/
theorem State.noteOn_of_some {ch : BitVec 4} (hm : ch ≤ s.cfg.maxchan) (key : BitVec 7) {vel : BitVec 7}
    (hvel : vel ≠ 0) {u : State} (ha : s.allocateOrSteal = (some v, u)) :
    s.noteOn ch key vel = (u.bindVoice v ch key vel).startNote v (timbreIndex ch key (s.chan ch).program) := by
  have hchan : u.chan ch = s.chan ch := by
    have := s.allocateOrSteal_chans
    rw [ha] at this
    rw [State.chan, State.chan, this]
  simp only [State.noteOn, if_neg (BitVec.not_lt.2 hm), if_neg hvel, ha, hchan]

/-- The state between the steal of voice `h` and the note start: the voice released, and taken from `FREE` again. -/
def State.stolen (s : State) (h : Nat) : State := (s.releaseVoice h).setFree []

theorem State.stolen_eq {h : Nat} (hh : h < s.voices.length) :
    s.stolen h = ((s.released h).setFree []).emitAll (s.keyOffItem h) := by
  rw [State.stolen, s.releaseVoice_eq hh, State.emitAll_setFree]

theorem State.stolen_voice {h : Nat} (hh : h < s.voices.length) (w : Nat) :
    (s.stolen h).voice w =
      if w = h then { s.voice h with on := false, owner := FREE_OWNER } else s.voice w := by
  rw [State.stolen_eq hh, State.emitAll_voice, State.setFree_voice, s.released_voice hh]

theorem Consistent.stolen_activeOf (hc : Consistent s) {c : BitVec 4} {h : Nat} {rest : List Nat}
    (ha : s.activeOf c = h :: rest) (d : BitVec 4) :
    (s.stolen h).activeOf d = if d = c then rest else s.activeOf d := by
  rw [State.stolen, State.setFree_activeOf, hc.activeOf_releaseVoice (by rw [ha]; exact List.mem_cons_self ..), ha,
    List.erase_cons_head]

/-- A NOTEON that steals starts its note on the voice stolen (40_voice_pool.md R135, 41_event_commands.md R151). -/
theorem Consistent.noteStarted_of_steal (hc : Consistent s) {ch : BitVec 4} (hm : ch ≤ s.cfg.maxchan) (key : BitVec 7)
    {vel : BitVec 7} (hvel : vel ≠ 0) {h : Nat} {rest : List Nat} (hf : s.free = [])
    (ha : s.activeOf Config.PERC_CH = h :: rest) :
    NoteStarted (s.stolen h) h ch key vel (timbreIndex ch key (s.chan ch).program) (s.noteOn ch key vel) := by
  have hh : h < s.voices.length := hc.lt_voices (by rw [ha]; exact List.mem_cons_self ..)
  rw [State.noteOn_of_some hm key hvel (State.allocateOrSteal_of_steal hf ha)]
  exact noteStarted_bindVoice_startNote (by simpa [State.stolen_eq hh, State.released] using hh) ch key vel _

/-- The record of a note, as the number the statements give it. -/
theorem timbreIndex_seven_toNat (ch : BitVec 4) {key : Byte} (hk : key.toNat ≤ 127) (prog : BitVec 7) :
    (timbreIndex ch (seven key) prog).toNat = if ch = 9 then 128 + key.toNat else prog.toNat := by
  rw [timbreIndex_toNat, toNat_seven hk]

/-- Settles O19: the steal releases the head of channel 9's list, which leaves it the one free voice, and the note
starts on it from there. -/
theorem noteOnStealsOldestPercussion : Obligations.NoteOnStealsOldestPercussion := by
  intro s ch key vel z h rest hc he hk hv1 hv hm hf ha
  have hh : h < s.voices.length := hc.lt_voices (c := 9) (by rw [ha]; exact List.mem_cons_self ..)
  obtain ⟨hactive, hvoice, hothers, ⟨items, hout, hshadow, hitems⟩, hframe⟩ :=
    hc.noteStarted_of_steal hm (seven key) (seven_ne_zero hv hv1) hf ha
  have hexec := exec_noteon_open s (ch := ch) (z := z) he hk hv
  generalize s.noteOn ch (seven key) (seven vel) = t at *
  have hstolen := State.stolen_voice hh
  have hlists := hc.stolen_activeOf ha
  have hrecord := timbreIndex_seven_toNat ch hk (s.chan ch).program
  rw [hstolen h, if_pos rfl] at hvoice hitems
  refine ⟨t, items, hexec, congrArg State.free hframe, ?_, fun h9 => ?_, fun c hne h9 => ?_, ?_,
    by rw [hvoice, toNat_seven hk], by rw [hvoice, toNat_seven hv], by rw [hvoice], by rw [hvoice, hrecord],
    by rw [hvoice], by rw [hvoice], by rw [hvoice], fun w hw => ?_, ?_, ?_, ?_, ?_⟩
  · rw [hactive, hlists, hlists, if_pos rfl]
    simp only [eq_comm (a := (9 : BitVec 4))]
    split <;> rfl
  · rw [hactive, if_pos rfl, hlists, if_neg h9]
  · rw [hactive, if_neg hne, hlists, if_neg h9]
  · rw [hvoice, BitVec.toNat_setWidth_of_le (by decide)]
  · rw [hothers w hw, hstolen, if_neg hw]
  · rw [hout, State.stolen_eq hh]
    rfl
  · rw [hshadow, State.stolen_eq hh, shadowAfter, shadowAfter, List.foldl_append]
    rfl
  · simp only [hitems, ← BitVec.toNat_inj, hrecord]
  · rw [hframe, State.stolen_eq hh]
    simp [State.emitAll, State.released, State.setVoice, State.setActive, State.setFree, hf]

end Sys2Proof.Machine
end

section
/-! The active lists that an event leaves alone, and the number of voices in the pool. -/

namespace Sys2Proof.Machine

open Sys2Proof

variable {s t : State} {v : Nat}

/-! ### Writes of a voice and of a channel leave the active lists alone -/

@[simp] theorem State.applyTimbre_active (s : State) (v : Nat) (r : BitVec 9) :
    (s.applyTimbre v r).active = s.active := by
  unfold State.applyTimbre
  split
  · rfl
  · simp [State.applyOperator_eq, State.writeVoiceReg_eq]

@[simp] theorem State.applyVolume_active (s : State) (v : Nat) : (s.applyVolume v).active = s.active := by
  rw [State.applyVolume_eq, State.emitAll_active]

@[simp] theorem State.applyPitch_active (s : State) (v : Nat) : (s.applyPitch v true).active = s.active := by
  rw [State.applyPitch_eq, State.emitAll_active, State.setVoice_active]

@[simp] theorem State.applyPan_active (s : State) (v : Nat) : (s.applyPan v).active = s.active := by
  rw [State.applyPan_eq, State.emitAll_active]

@[simp] theorem State.startNote_active (s : State) (v : Nat) (r : BitVec 9) : (s.startNote v r).active = s.active := by
  simp [State.startNote]

/-- A change of a channel and a loop over its voices that only writes them. -/
theorem State.setChan_forActive_active (s : State) (ch : BitVec 4) (k : Chan) {f : State → Nat → State}
    (hf : ∀ s v, (f s v).active = s.active) : ((s.setChan ch k).forActive ch f).active = s.active :=
  List.foldlRecOn (motive := fun t : State => t.active = s.active) _ f rfl fun t ht v _ => (hf t v).trans ht

/-! ### The active list of a channel that an event leaves alone -/

/-- The active list of every channel but `ch` is the same in `t` as in `s`. -/
def OtherListsKept (ch : BitVec 4) (s t : State) : Prop := ∀ c, c ≠ ch → t.activeOf c = s.activeOf c

namespace OtherListsKept

variable {ch : BitVec 4}

theorem of_active (h : t.active = s.active) : OtherListsKept ch s t := fun c _ => by
  rw [State.activeOf, State.activeOf, h]

theorem trans {u : State} (h : OtherListsKept ch s t) (k : OtherListsKept ch t u) : OtherListsKept ch s u :=
  fun c hc => (k c hc).trans (h c hc)

theorem gated {b : Bool} {f : State → State} (h : OtherListsKept ch s (f s)) : OtherListsKept ch s (gated b f s) :=
  gated_keeps (of_active rfl) h

theorem releaseVoice (h : Consistent s) (hv : v ∈ s.activeOf ch) : OtherListsKept ch s (s.releaseVoice v) :=
  fun c hc => by rw [h.activeOf_releaseVoice hv, if_neg hc]

theorem noteOff (h : Consistent s) (ch : BitVec 4) (key : BitVec 7) : OtherListsKept ch s (s.noteOff ch key) := by
  cases hf : s.findNote ch key with
  | none => rw [s.noteOff_of_none hf]; exact of_active rfl
  | some v => rw [s.noteOff_of_some hf]; exact releaseVoice h (List.mem_of_find?_eq_some hf)

/-- Releasing different voices of one list one after the other. -/
theorem foldl_releaseVoice (l : List Nat) (hl : l.Nodup) (h : Consistent s) (hm : ∀ v ∈ l, v ∈ s.activeOf ch) :
    OtherListsKept ch s (l.foldl State.releaseVoice s) := by
  induction l generalizing s with
  | nil => exact of_active rfl
  | cons v l ih =>
    obtain ⟨hv, hl⟩ := List.nodup_cons.1 hl
    have hact := hm v (List.mem_cons_self ..)
    refine (releaseVoice h hact).trans (ih hl (h.releaseVoice hact) fun w hw => ?_)
    exact (h.mem_activeOf_releaseVoice hact ch w).2 ⟨hm w (List.mem_cons_of_mem v hw), fun e => hv (e ▸ hw)⟩

theorem allNotesOff (h : Consistent s) (ch : BitVec 4) : OtherListsKept ch s (s.allNotesOff ch) :=
  have ⟨_, _, ⟨_, hnodup, _⟩, _⟩ := h
  foldl_releaseVoice _ (hnodup ch) h fun _ hv => hv

theorem bindVoice (s : State) (v : Nat) (ch : BitVec 4) (key vel : BitVec 7) :
    OtherListsKept ch s (s.bindVoice v ch key vel) :=
  fun c hc => by rw [State.bindVoice, State.activeOf_setActive_of_ne _ _ hc, State.setVoice_activeOf]

theorem rebend (s : State) (ch : BitVec 4) (k : Chan) : OtherListsKept ch s (s.rebend ch k) :=
  of_active (s.setChan_forActive_active ch _ fun s v => s.applyPitch_active v)

/-- A controller other than Reset All Controllers releases voices of its own channel at most
(41_event_commands.md R171). -/
theorem control (h : Consistent s) (ch : BitVec 4) {ctl : Controller} (hctl : ctl ≠ .resetAll) (val : BitVec 7) :
    OtherListsKept ch s (s.control ch ctl val) := by
  cases ctl with
  | volume | expression | brightness =>
    exact of_active (s.setChan_forActive_active ch _ fun s v => s.applyVolume_active v)
  | pan => exact of_active (s.setChan_forActive_active ch _ fun s v => s.applyPan_active v)
  | detune => exact of_active (s.setChan_forActive_active ch _ fun s v => s.applyPitch_active v)
  | allNotesOff => exact allNotesOff h ch
  | resetAll => exact absurd rfl hctl
  | rpnMsb | rpnLsb => exact of_active rfl
  | dataEntryMsb | dataEntryLsb =>
    unfold State.control
    dsimp only
    split
    · exact rebend s ch _
    · exact of_active rfl

theorem controlChange (h : Consistent s) (ch : BitVec 4) {ctl : BitVec 7} (hctl : ctl ≠ 121) (val : BitVec 7) :
    OtherListsKept ch s (s.controlChange ch ctl val) := by
  unfold State.controlChange
  split
  next k hk => exact control h ch (fun he => hctl (eq_of_controllerOf_resetAll (he ▸ hk))) val
  next => exact of_active rfl

theorem allocate (s : State) : OtherListsKept ch s s.allocate.2 := by
  unfold State.allocate
  split <;> exact of_active rfl

/-- A steal takes its voice from the percussion channel (40_voice_pool.md R135). -/
theorem allocateOrSteal (h : Consistent s) : OtherListsKept Config.PERC_CH s s.allocateOrSteal.2 := by
  unfold State.allocateOrSteal
  split
  · exact allocate s
  · split
    · exact of_active rfl
    · exact (noteOff h _ _).trans (allocate _)

end OtherListsKept

/-- NOTEON leaves the list of a channel alone that is neither its own nor the percussion channel (R138). -/
theorem Consistent.noteOn_activeOf (h : Consistent s) {ch c : BitVec 4} (hc : c ≠ ch) (hperc : c ≠ Config.PERC_CH)
    (key vel : BitVec 7) : (s.noteOn ch key vel).activeOf c = s.activeOf c := by
  have ha := OtherListsKept.allocateOrSteal h c hperc
  unfold State.noteOn
  split
  · rfl
  · split
    · exact OtherListsKept.noteOff h ch key c hc
    · split
      next heq => rwa [heq] at ha
      next v u heq =>
        rw [heq] at ha
        have hbind := OtherListsKept.bindVoice u v ch key vel
        exact (hbind.trans (.of_active (State.startNote_active _ _ _)) c hc).trans ha

/-- Settles O58: an event releases and binds voices of its own channel, but for the steal, which takes channel 9's. -/
theorem eventsKeepOtherActiveLists : Obligations.EventsKeepOtherActiveLists := by
  intro s ch c a b z z' t hs hc
  refine ⟨fun h => ?_, fun h9 h => ?_, fun ha h => ?_, fun h => ?_, fun h => ?_⟩ <;> cases h
  · exact (OtherListsKept.noteOff hs ch _).gated c hc
  · exact gated_keeps (Q := fun t => t.activeOf c = s.activeOf c) rfl (hs.noteOn_activeOf hc h9 _ _)
  · by_cases h7 : isSeven a = true
    · exact (OtherListsKept.controlChange hs ch (ne_121_of_isSeven h7 ha) (seven b)).gated c hc
    · rw [gated_of_bytes s (by simp [h7])]
  · exact (OtherListsKept.of_active (ch := ch) rfl).gated c hc
  · exact (OtherListsKept.rebend s ch _).gated c hc

/-! ### The number of voices in the pool (40_voice_pool.md R139 (d)) -/

/-- Every voice that `FREE` and the active lists hold, list after list. -/
def State.pool (s : State) : List Nat :=
  s.free ++ (List.finRange 16).flatMap fun c => s.activeOf (BitVec.ofFin c)

theorem State.length_pool (s : State) : s.pool.length = s.pooled := by
  simp [State.pool, State.pooled, List.length_flatMap]

theorem State.mem_pool : v ∈ s.pool ↔ v ∈ s.free ∨ ∃ c, v ∈ s.activeOf c := by
  rw [State.pool, List.mem_append, List.mem_flatMap]
  exact or_congr_right ⟨fun ⟨c, _, hv⟩ => ⟨_, hv⟩, fun ⟨c, hv⟩ => ⟨c.toFin, List.mem_finRange _, hv⟩⟩

/-- No voice stands twice in the lists of a consistent state: an active voice is owned by its list's channel. -/
theorem Consistent.nodup_pool (h : Consistent s) : s.pool.Nodup := by
  have hchan := fun {c : BitVec 4} {v : Nat} (hv : v ∈ s.activeOf c) => h.chanIndex hv
  obtain ⟨-, -, ⟨hfree, hactive, hapart, -⟩, -⟩ := h
  refine List.nodup_append'.2 ⟨hfree, List.nodup_flatMap.2 ⟨fun c _ => hactive _, ?_⟩, fun v hv hm => ?_⟩
  · refine (List.nodup_finRange 16).imp fun {c d} hne v hc hd => hne ?_
    exact BitVec.ofFin.inj ((hchan hc).symm.trans (hchan hd))
  · obtain ⟨c, -, hc⟩ := List.mem_flatMap.1 hm
    exact (hapart v hv).2.2 _ hc

/-- The lists of a consistent state hold the live unreserved voices. -/
theorem Consistent.mem_pool_iff (h : Consistent s) :
    v ∈ s.pool ↔ v < s.cfg.nv s.hw ∧ (s.voice v).reserved = false := by
  obtain ⟨-, -, ⟨-, -, hfree, hall⟩, hactive, -⟩ := h
  rw [State.mem_pool]
  constructor
  · rintro (hv | ⟨c, hv⟩)
    · exact ⟨(hfree v hv).1, (hfree v hv).2.1⟩
    · exact ⟨(hactive c v hv).1, (hactive c v hv).2.1⟩
  · rintro ⟨hlive, hres⟩
    exact (hall v hlive hres).imp_right fun hv => ⟨_, hv⟩

/-- A voice of a consistent state is reserved where Recategorise reserves its slot. -/
theorem Consistent.reserved_eq (h : Consistent s) (hv : v < s.cfg.nv s.hw) :
    (s.voice v).reserved = reservedAt s.hw s.cfg v := by
  obtain ⟨hlegal, ⟨-, htable⟩, -⟩ := h
  exact (htable v (hlegal.lt_nvMax hv)).2.1

/-- The pool of a consistent state is what `FREE` holds after a reset, in some order and with some of it bound. -/
theorem Consistent.pool_perm (h : Consistent s) : s.pool.Perm (freshFree s.hw s.cfg) := by
  refine (List.perm_ext_iff_of_nodup h.nodup_pool (List.nodup_range.filter _)).2 fun v => ?_
  rw [h.mem_pool_iff, List.mem_filter, List.mem_range, Bool.not_eq_true']
  exact and_congr_right fun hv => by rw [h.reserved_eq hv]

theorem Consistent.pooled_eq (h : Consistent s) : s.pooled = (freshFree s.hw s.cfg).length := by
  rw [← State.length_pool, h.pool_perm.length_eq]

/-- No step changes the build. -/
theorem step_hw (h : step s = .next t) : t.hw = s.hw :=
  step_keeps (Q := fun t => t.hw = s.hw) (fun _ _ h => h) (fun _ h => h) (fun _ _ _ h he => (exec_hw he).trans h) rfl h

/-- Settles O52: the lists of a consistent state hold the live unreserved voices once each, and the build and the
configuration say which these are. -/
theorem poolIsConserved : Obligations.PoolIsConserved := by
  refine ⟨fun s h => ?_, fun s t hwf h hstep hcfg => ?_⟩
  · rw [h.pooled_eq, freshFree]
    refine congrArg List.length (List.filter_congr fun v hv => ?_)
    rw [h.reserved_eq (List.mem_range.1 hv)]
  · rw [(stepKeepsConsistent s t hwf h hstep).pooled_eq, h.pooled_eq, step_hw hstep, hcfg]

end Sys2Proof.Machine
end

section
/-! The slots that Recategorise reserves, and the size of the pool a reset leaves with `REF`. -/

namespace Sys2Proof.Machine

open Sys2Proof

/-! ### Where Recategorise leaves `Regular` (44_register_mapper.md R242) -/

/-- A run of writes, none of them `Regular`, leaves `Regular` where it found it and no write was made. -/
theorem foldl_ne_regular_iff {step : Category → Nat → Category} {Hit : Nat → Prop} (l : List Nat)
    (hhit : ∀ cat k, k ∈ l → (step cat k ≠ .regular ↔ Hit k ∨ cat ≠ .regular)) (cat : Category) :
    l.foldl step cat ≠ .regular ↔ (∃ k ∈ l, Hit k) ∨ cat ≠ .regular := by
  induction l generalizing cat with
  | nil => simp
  | cons k l ih =>
    rw [List.foldl_cons, ih fun cat k hk => hhit cat k (List.mem_cons_of_mem _ hk), hhit cat k (List.mem_cons_self ..)]
    rw [List.exists_mem_cons_iff, or_left_comm, or_assoc]

theorem ne_regular_of_mem_rhythmWrites {rhythm : Bool} {w : Nat × Category} (hw : w ∈ rhythmWrites rhythm) :
    w.2 ≠ .regular := by
  cases rhythm <;> revert w <;> decide

/-- Step 1 hits the slots of the rhythm mode's writes on every live chip. -/
theorem rhythmCategory_ne_regular_iff (p : Params) (c : Cfg) (v : Nat) :
    rhythmCategory p c v ≠ .regular ↔
      ∃ chip < c.nchips.toNat, ∃ w ∈ rhythmWrites c.rhythm, chip * p.spc + w.1 = v := by
  rw [rhythmCategory, foldl_ne_regular_iff (Hit := fun chip => ∃ w ∈ rhythmWrites c.rhythm, chip * p.spc + w.1 = v)]
  · simp
  · intro cat chip _
    split
    next w hw =>
      have hmem := List.mem_of_find?_eq_some hw
      have hslot := List.find?_some hw
      exact iff_of_true (ne_regular_of_mem_rhythmWrites hmem) (.inl ⟨w, hmem, by simpa using hslot⟩)
    next hnone =>
      have hmiss : ¬ ∃ w ∈ rhythmWrites c.rhythm, chip * p.spc + w.1 = v := by
        simpa using List.find?_eq_none.1 hnone
      exact (or_iff_right hmiss).symm

/-- Step 2 hits the two slots of every enabled pair. -/
theorem categoryAt_ne_regular_iff (p : Params) (c : Cfg) (v : Nat) :
    categoryAt p c v ≠ .regular ↔
      (∃ k < c.n4op.toNat, ∃ first, p.fouropFirst[k]? = some first ∧ (v = first ∨ v = first + p.fouropDelta)) ∨
      rhythmCategory p c v ≠ .regular := by
  rw [categoryAt, foldl_ne_regular_iff
    (Hit := fun k => ∃ first, p.fouropFirst[k]? = some first ∧ (v = first ∨ v = first + p.fouropDelta))]
  · simp
  · intro cat k _
    cases hk : p.fouropFirst[k]? with
    | none => simp
    | some first =>
      dsimp only
      split
      next hsecond => exact iff_of_true nofun (.inl ⟨first, rfl, .inr hsecond⟩)
      next hsecond =>
        split
        next hfirst => exact iff_of_true nofun (.inl ⟨first, rfl, .inl hfirst⟩)
        next hfirst => simp [hfirst, hsecond]

/-! ### The slots of a `REF` chip (R244, R245) -/

/-- The local slot of the first half of a chip's pair `j`. -/
def refPairSlot (j : Nat) : Nat := [0, 1, 2, 9, 10, 11].getD j 0

theorem refPairSlot_le : ∀ j < 6, refPairSlot j ≤ 11 := by decide

theorem refFouropFirst_getElem? {k : Nat} (hk : k < 36) :
    refFouropFirst[k]? = some (k / 6 * 23 + refPairSlot (k % 6)) := by
  simp [refFouropFirst, refPairSlot, hk]

theorem lt_of_mem_rhythmWrites {rhythm : Bool} {w : Nat × Category} (hw : w ∈ rhythmWrites rhythm) : w.1 < 23 := by
  cases rhythm <;> revert w <;> decide

/-- Local slot `ls` of a live chip with `pairs` of its pairs enabled is reserved: the rhythm mode's channels, the pairs,
and the second register set where the chip has none. -/
def refReserved (capChiptype rhythm : Bool) (pairs ls : Nat) : Bool :=
  decide ((∃ j < pairs, ls = refPairSlot j ∨ ls = refPairSlot j + 3) ∨ ∃ w ∈ rhythmWrites rhythm, w.1 = ls) ||
    (!capChiptype && decide (9 ≤ ls) && decide (ls ≤ 17))

section Chip

variable {capChiptype capFullpan : Bool} {c : Cfg} {chip ls : Nat}

/-- The rhythm mode's writes on a live chip hit the same local slots whichever chip it is. -/
theorem rhythmCategory_ref_ne_regular_iff (hchip : chip < c.nchips.toNat) (hls : ls < 23) :
    rhythmCategory (refParams capChiptype capFullpan) c (chip * 23 + ls) ≠ .regular ↔
      ∃ w ∈ rhythmWrites c.rhythm, w.1 = ls := by
  rw [rhythmCategory_ne_regular_iff]
  constructor
  · rintro ⟨chip', -, w, hw, hslot⟩
    have hlt := lt_of_mem_rhythmWrites hw
    exact ⟨w, hw, by dsimp only [refParams] at hslot; omega⟩
  · rintro ⟨w, hw, rfl⟩
    exact ⟨chip, hchip, w, hw, rfl⟩

/-- The enabled pairs on a chip are the first of its six. -/
theorem pair_ref_iff (hn : c.n4op.toNat ≤ 36) (hls : ls < 23) :
    (∃ k < c.n4op.toNat, ∃ first, refFouropFirst[k]? = some first ∧
        (chip * 23 + ls = first ∨ chip * 23 + ls = first + 3)) ↔
      ∃ j < min 6 (c.n4op.toNat - 6 * chip), ls = refPairSlot j ∨ ls = refPairSlot j + 3 := by
  constructor
  · rintro ⟨k, hk, first, hfirst, hslot⟩
    rw [refFouropFirst_getElem? (by omega), Option.some_inj] at hfirst
    have hle := refPairSlot_le (k % 6) (Nat.mod_lt _ (by decide))
    exact ⟨k % 6, by omega, by omega⟩
  · rintro ⟨j, hj, hslot⟩
    refine ⟨6 * chip + j, by omega, _, refFouropFirst_getElem? (by omega), ?_⟩
    rw [show (6 * chip + j) / 6 = chip by omega, show (6 * chip + j) % 6 = j by omega]
    omega

/-- The reservation of a live chip's slot depends on the local slot and on how many of the chip's pairs are enabled. -/
theorem reservedAt_ref (hn : c.n4op.toNat ≤ 36) (hchip : chip < c.nchips.toNat) (hls : ls < 23) :
    reservedAt (refParams capChiptype capFullpan) c (chip * 23 + ls) =
      refReserved capChiptype c.rhythm (min 6 (c.n4op.toNat - 6 * chip)) ls := by
  have hlive : ¬ c.nv (refParams capChiptype capFullpan) ≤ chip * 23 + ls := by
    simp only [Cfg.nv, refParams]
    omega
  have hlocal : (chip * 23 + ls) % (refParams capChiptype capFullpan).spc = ls := by
    simp only [refParams]
    omega
  have hcat : categoryAt (refParams capChiptype capFullpan) c (chip * 23 + ls) ≠ .regular ↔ _ :=
    (categoryAt_ne_regular_iff _ c _).trans
      (or_congr (pair_ref_iff hn hls) (rhythmCategory_ref_ne_regular_iff hchip hls))
  rw [reservedAt, refReserved, decide_eq_false hlive, Bool.false_or, decide_eq_decide.2 hcat]
  simp only [hlocal]
  rfl

end Chip

/-! ### The size of the pool (40_voice_pool.md R132) -/

/-- The slots of one live chip that are left for notes. -/
theorem length_filter_refReserved : ∀ (capChiptype rhythm : Bool) (pairs : Nat), pairs < 7 →
    (capChiptype = false → pairs = 0) →
    ((List.range 23).filter fun ls => !refReserved capChiptype rhythm pairs ls).length + 2 * pairs +
      (if rhythm then 3 else 0) = if capChiptype then 18 else 9 := by
  decide

/-- The pool's capacity, counted over the first `n` live chips. -/
theorem length_unreserved_ref {capChiptype capFullpan : Bool} {c : Cfg} (hn : c.n4op.toNat ≤ 36)
    (hcap : capChiptype = false → c.n4op.toNat = 0) {n : Nat} (hlive : n ≤ c.nchips.toNat) :
    ((List.range (n * 23)).filter fun v => !reservedAt (refParams capChiptype capFullpan) c v).length +
        2 * min (6 * n) c.n4op.toNat + (if c.rhythm then 3 * n else 0) = (if capChiptype then 18 else 9) * n := by
  induction n with
  | zero => simp
  | succ n ih =>
    have hchip : ∀ ls ∈ List.range 23, (!reservedAt (refParams capChiptype capFullpan) c (n * 23 + ls)) =
        !refReserved capChiptype c.rhythm (min 6 (c.n4op.toNat - 6 * n)) ls := fun ls hls => by
      rw [reservedAt_ref hn hlive (List.mem_range.1 hls)]
    have hcount := length_filter_refReserved capChiptype c.rhythm (min 6 (c.n4op.toNat - 6 * n)) (by omega)
      fun h => by rw [hcap h]; simp
    have ih := ih (by omega)
    rw [Nat.succ_mul, List.range_add, List.filter_append, List.length_append, List.filter_map, List.length_map,
      Function.comp_def, List.filter_congr hchip]
    split_ifs at ih hcount ⊢ <;> omega

/-- Settles O41: the capacity over all live chips, on which all enabled pairs lie. -/
theorem refPoolCapacity : Obligations.RefPoolCapacity := by
  intro fullpan c hchips hn4op
  have hn : c.n4op.toNat ≤ 36 := by omega
  refine ⟨?_, fun h0 => ?_⟩
  · have := length_unreserved_ref (capChiptype := true) (capFullpan := fullpan) hn nofun (Nat.le_refl _)
    rwa [Nat.min_eq_right hn4op] at this
  · have hzero : c.n4op.toNat = 0 := by rw [h0]; rfl
    have := length_unreserved_ref (capChiptype := false) (capFullpan := fullpan) hn (fun _ => hzero) (Nat.le_refl _)
    rwa [Nat.min_eq_right hn4op, hzero] at this

end Sys2Proof.Machine
end

section
/-! NOTEON with a free voice, and the notes that are or end as a NOTEOFF that does nothing. -/

namespace Sys2Proof.Machine

open Sys2Proof

variable {s : State} {v : Nat}

/-! ### NOTEON with a free voice (41_event_commands.md R151) -/

/-- With a free voice AllocateOrSteal takes the head of `FREE` (40_voice_pool.md R131, R135). -/
theorem State.allocateOrSteal_of_free {rest : List Nat} (hf : s.free = v :: rest) :
    s.allocateOrSteal = (some v, s.setFree rest) := by
  simp only [State.allocateOrSteal, hf, State.allocate]

/-- A NOTEON with a free voice starts its note on the head of `FREE`. -/
theorem noteStarted_of_free {rest : List Nat} (hf : s.free = v :: rest) (hv : v < s.voices.length) {ch : BitVec 4}
    (hm : ch ≤ s.cfg.maxchan) (key : BitVec 7) {vel : BitVec 7} (hvel : vel ≠ 0) :
    NoteStarted (s.setFree rest) v ch key vel (timbreIndex ch key (s.chan ch).program) (s.noteOn ch key vel) := by
  rw [State.noteOn_of_some hm key hvel (State.allocateOrSteal_of_free hf)]
  exact noteStarted_bindVoice_startNote (by simpa using hv) ch key vel _

/-- Settles O17: the note starts on the head of `FREE`, and the fields are those of a started note. -/
theorem noteOnBindsHeadOfFree : Obligations.NoteOnBindsHeadOfFree := by
  intro s ch key vel z v rest he hk hv1 hv hm hf hlt
  obtain ⟨hactive, hvoice, hothers, -, hframe⟩ := noteStarted_of_free hf hlt hm (seven key) (seven_ne_zero hv hv1)
  have hexec := exec_noteon_open s (ch := ch) (z := z) he hk hv
  generalize s.noteOn ch (seven key) (seven vel) = t at *
  refine ⟨t, hexec, congrArg State.free hframe, ?_, fun c hne => ?_, ?_, by rw [hvoice, toNat_seven hk],
    by rw [hvoice, toNat_seven hv], by rw [hvoice], by rw [hvoice, timbreIndex_seven_toNat ch hk], by rw [hvoice],
    by rw [hvoice]; rfl, by rw [hvoice]; rfl, hothers, ?_⟩
  · rw [hactive, if_pos rfl]
    rfl
  · rw [hactive, if_neg hne]
    rfl
  · rw [hvoice, BitVec.toNat_setWidth_of_le (by decide)]
  · rw [hframe]
    rfl

/-- Settles O18: the named bytes are the record's in the order of the layout, and the items are those of a started
note. -/
theorem noteOnEmitsPhasesInOrder : Obligations.NoteOnEmitsPhasesInOrder := by
  refine ⟨fun s r => rfl, fun s ch key vel z v rest he hk hv1 hv hm hf hlt => ?_⟩
  obtain ⟨-, -, -, ⟨items, hout, hshadow, hitems⟩, -⟩ :=
    noteStarted_of_free hf hlt hm (seven key) (seven_ne_zero hv hv1)
  refine ⟨_, items, exec_noteon_open s he hk hv, hout, hshadow, ?_⟩
  simp only [hitems, ← BitVec.toNat_inj, timbreIndex_seven_toNat ch hk]
  rfl

/-! ### Notes off that find no note -/

/-- A key that no voice of the channel's list has is not found (41_event_commands.md R160). -/
theorem State.findNote_eq_none {ch : BitVec 4} {key : BitVec 7} (h : ∀ w ∈ s.activeOf ch, (s.voice w).key ≠ key) :
    s.findNote ch key = none := by
  simpa [State.findNote] using h

/-- Settles O23: where the gates let the NOTEOFF through, it finds no note. -/
theorem noteOffWithoutMatchDoesNothing : Obligations.NoteOffWithoutMatchDoesNothing := by
  intro s ch key vel z h
  rw [exec_noteoff]
  rcases gated_cases s _ fun s => s.noteOff ch (seven key) with e | ⟨-, hb, e⟩ <;> rw [e]
  have hk : key.toNat ≤ 127 := (isSeven_iff key).1 (Bool.and_eq_true_iff.1 hb).1
  have hnone : s.findNote ch (seven key) = none :=
    State.findNote_eq_none fun w hw hkey => h w hw ((eq_seven_iff hk _).1 hkey)
  rw [s.noteOff_of_none hnone]

/-- A NOTEON of velocity 0 is a NOTEOFF where a channel above `MAXCHAN` has no voice (41_event_commands.md R152,
R162). -/
theorem State.noteOn_zero (h : MaxchanOk s) (ch : BitVec 4) (key : BitVec 7) :
    s.noteOn ch key 0 = s.noteOff ch key := by
  by_cases hm : s.cfg.maxchan < ch
  · have hnone : s.findNote ch key = none := State.findNote_eq_none fun w hw => by simp [h ch hm] at hw
    rw [State.noteOn_of_maxchan_lt hm, s.noteOff_of_none hnone]
  · rw [State.noteOn, if_neg hm, if_pos rfl]

/-- Settles O21: both pass the same gates, and the effects are the same. -/
theorem noteOnZeroVelocityIsNoteOff : Obligations.NoteOnZeroVelocityIsNoteOff := by
  intro s ch key vel z z' hc hv
  obtain ⟨-, -, -, -, -, hmaxchan⟩ := hc
  have heffect : s.noteOn ch (seven key) (seven 0) = s.noteOff ch (seven key) := State.noteOn_zero hmaxchan ch _
  rw [exec_noteon, exec_noteoff, isSeven_of_le hv, show isSeven 0 = true from rfl]
  simp only [gated, heffect]

end Sys2Proof.Machine
end

section
/-! The controllers of CTRL that write one channel and what its voices sound like. -/

namespace Sys2Proof.Machine

open Sys2Proof

variable {s : State}

/-! ### The controllers' numbers (30_encoding.md R112) -/

/-- Every controller number with a rule is a data byte. -/
theorem le_of_controllerTable_lookup {n : Nat} {k : Controller} (h : controllerTable.lookup n = some k) :
    n ≤ 127 := by
  have hall : ∀ e ∈ controllerTable, e.1 ≤ 127 := by decide
  obtain ⟨before, after, hsplit, -⟩ := List.lookup_eq_some_iff.1 h
  exact hall (n, k) (by rw [hsplit]; simp)

/-- CTRL with the number of a controller runs the controller's rule. -/
theorem exec_ctrl_of_lookup (he : s.cfgerr = false) {ctl val : BitVec 8} {k : Controller}
    (hk : controllerTable.lookup ctl.toNat = some k) (hv : val.toNat ≤ 127) (ch : BitVec 4) (z : BitVec 8) :
    exec (.ctrl ch ctl val z) s = .next (s.control ch k (seven val)) := by
  have hc := le_of_controllerTable_lookup hk
  rw [exec_ctrl_open s he hc hv, s.controlChange_of_lookup (toNat_seven hc) hk]

/-! ### Volume, expression, brightness and pan (41_event_commands.md R166 to R169) -/

/-- What a change of channel `ch` and a loop over its voices do, where the loop's body only emits the items of a phase:
the phase of each voice goes out as the new state gives it. -/
theorem State.setChan_emit {g : State → Nat → State} {phase : State → Nat → List OutItem}
    (hg : ∀ s v, g s v = s.emitAll (phase s v)) (hphase : ∀ s l v, phase (s.emitAll l) v = phase s v) (s : State)
    (ch : BitVec 4) (k : Chan) :
    ∃ t, (s.setChan ch k).forActive ch g = t ∧ t.chan ch = k ∧ (∀ c, c ≠ ch → t.chan c = s.chan c) ∧
      t.out = s.out ++ (s.activeOf ch).flatMap (phase t) ∧
      t.shadow = shadowAfter s.shadow ((s.activeOf ch).flatMap (phase t)) ∧
      t = { s with chans := t.chans, out := t.out, shadow := t.shadow } := by
  have hloop := foldl_emitAll (s.setChan ch k) hg hphase (s.activeOf ch)
  have hsame : ∀ l, phase ((s.setChan ch k).emitAll l) = phase (s.setChan ch k) := fun l => funext (hphase _ l)
  refine ⟨_, hloop, by simp, fun c hc => by simp [hc], ?_, ?_, rfl⟩ <;> rw [hsame] <;> rfl

/-- Controllers 7, 11 and 74 set their field of the channel and run the volume phase of its voices. -/
theorem exec_ctrl_volumeField (he : s.cfgerr = false) {ctl val : BitVec 8} (hv : val.toNat ≤ 127)
    (hctl : ctl.toNat = 7 ∨ ctl.toNat = 11 ∨ ctl.toNat = 74) (ch : BitVec 4) (z : BitVec 8) :
    ∃ k : Chan, exec (.ctrl ch ctl val z) s = .next (s.setVolumeField ch k) ∧
      k.volume.toNat = (if ctl.toNat = 7 then val.toNat else (s.chan ch).volume.toNat) ∧
      k.expression.toNat = (if ctl.toNat = 11 then val.toNat else (s.chan ch).expression.toNat) ∧
      k.brightness.toNat = (if ctl.toNat = 74 then val.toNat else (s.chan ch).brightness.toNat) ∧
      k = { s.chan ch with volume := k.volume, expression := k.expression, brightness := k.brightness } := by
  have hval := toNat_seven hv
  rcases hctl with h | h | h
  · exact ⟨_, exec_ctrl_of_lookup he (k := .volume) (by rw [h]; rfl) hv ch z, by simp [h, hval]⟩
  · exact ⟨_, exec_ctrl_of_lookup he (k := .expression) (by rw [h]; rfl) hv ch z, by simp [h, hval]⟩
  · exact ⟨_, exec_ctrl_of_lookup he (k := .brightness) (by rw [h]; rfl) hv ch z, by simp [h, hval]⟩

/-- Settles O24: the one field changes, and the volume phases go out as the changed state gives them. -/
theorem volumeControllersRewriteLevels : Obligations.VolumeControllersRewriteLevels := by
  intro s ch ctl val z he hv hctl
  obtain ⟨k, hexec, hfields⟩ := exec_ctrl_volumeField he hv hctl ch z
  obtain ⟨t, ht, hchan, heffect⟩ :=
    State.setChan_emit State.applyVolume_eq (fun s => s.emitAll_volumePhase) s ch k
  obtain ⟨hvolume, hexpression, hbrightness, hothers⟩ := hchan ▸ hfields
  exact ⟨t, hexec.trans (congrArg _ ht), hvolume, hexpression, hbrightness, hothers, heffect⟩

/-- The pan bits, by the place of the channel's pan (44_register_mapper.md R268). -/
theorem State.panBits_eq (s : State) (c : BitVec 4) :
    s.panBits c =
      if s.cfg.stereo = false ∨ s.hw.capFullpan = true then 0x30
      else if (s.chan c).pan.toNat ≤ 31 then 0x10
      else if (s.chan c).pan.toNat ≤ 95 then 0x30
      else 0x20 := by
  unfold State.panBits
  generalize (s.chan c).pan.toNat = pan
  refine if_congr Iff.rfl rfl ?_
  rcases Nat.lt_or_ge pan 32 with hleft | hleft
  · rw [if_pos (by omega), if_neg (by omega), if_pos (by omega)]
    rfl
  · rw [if_neg (show ¬ pan ≤ 31 by omega), if_pos hleft]
    rcases Nat.lt_or_ge pan 96 with hright | hright
    · rw [if_pos hright, if_pos (by omega)]
      rfl
    · rw [if_neg (by omega), if_neg (by omega)]
      rfl

/-- Settles O25: the pan changes, and the pan phases go out as the changed state gives them. -/
theorem panControllerRewritesPan : Obligations.PanControllerRewritesPan := by
  refine ⟨State.panBits_eq, fun s ch val z he hv => ?_⟩
  obtain ⟨t, ht, hchan, heffect⟩ :=
    State.setChan_emit State.applyPan_eq (fun s => s.emitAll_panPhase) s ch { s.chan ch with pan := seven val }
  have hexec := exec_ctrl_of_lookup he (ctl := 10) (k := .pan) rfl hv ch z
  exact ⟨t, hexec.trans (congrArg _ ht), by rw [hchan, toNat_seven hv], by rw [hchan], heffect⟩

/-! ### The staged RPN (R174, R175) -/

/-- Settles O27: each sets its own byte of the channel. -/
theorem rpnControllersStage : Obligations.RpnControllersStage := by
  intro s ch val z he hv
  have hval := toNat_seven hv
  refine ⟨⟨_, exec_ctrl_of_lookup he (k := .rpnMsb) rfl hv ch z, ?_⟩,
    ⟨_, exec_ctrl_of_lookup he (k := .rpnLsb) rfl hv ch z, ?_⟩⟩ <;>
  exact ⟨by simp [State.control, hval], by simp [State.control], fun c hc => by simp [State.control, hc], rfl⟩

/-! ### Controllers that do nothing (R176, R177, R180) -/

theorem Chan.rpn_eq_zero_iff (k : Chan) : k.rpn = 0 ↔ k.rpnMsb = 0 ∧ k.rpnLsb = 0 := by
  simp only [Chan.rpn, ← BitVec.toNat_inj, toNat_append_sum]
  simp

/-- Settles O29: Data Entry asks for the RPN (0, 0), and a number outside the table has no rule; the gates leave the
state in any case. -/
theorem ignoredControllers : Obligations.IgnoredControllers := by
  intro s ch ctl val z
  refine ⟨fun hrpn => ?_, fun hctl => ?_⟩
  · have hne : ¬ (s.chan ch).rpn = 0 := by
      rw [Chan.rpn_eq_zero_iff]
      tauto
    constructor <;>
    · rw [exec_ctrl, gated_keeps (Q := (· = s)) rfl]
      exact if_neg hne
  · rw [exec_ctrl]
    rcases gated_cases s _ fun s => s.controlChange ch (seven ctl) (seven val) with e | ⟨-, hb, e⟩ <;> rw [e]
    have hc : ctl.toNat ≤ 127 := (isSeven_iff ctl).1 (Bool.and_eq_true_iff.1 hb).1
    have hnone : controllerTable.lookup (seven ctl).toNat = none := by
      rw [toNat_seven hc, List.lookup_eq_none_iff]
      simpa [controllerTable] using hctl
    rw [s.controlChange_of_none hnone]

end Sys2Proof.Machine
end

section
/-! BendCalc, and the events that rewrite the pitch of a channel's voices; and PROG. -/

namespace Sys2Proof.Machine

open Sys2Proof

variable {s : State}

/-! ### BendCalc (41_event_commands.md R185) -/

/-- The bend times its range: 14 bits about the centre, and at most 127 semitones and 127 cents. -/
theorem bend_mul_range_bounds (bend : BitVec 14) (semis cents : BitVec 7) :
    -105078784 ≤ ((bend.toNat : Int) - 8192) * ((semis.toNat : Int) * 100 + cents.toNat) ∧
      ((bend.toNat : Int) - 8192) * ((semis.toNat : Int) * 100 + cents.toNat) ≤ 105065957 := by
  have hb := bend.isLt
  have hs := semis.isLt
  have hc := cents.isLt
  have hrange0 : (0 : Int) ≤ (semis.toNat : Int) * 100 + cents.toNat := by omega
  have hrange : (semis.toNat : Int) * 100 + cents.toNat ≤ 12827 := by omega
  constructor
  · calc (-105078784 : Int) ≤ -8192 * ((semis.toNat : Int) * 100 + cents.toNat) := by omega
      _ ≤ _ := Int.mul_le_mul_of_nonneg_right (by omega) hrange0
  · calc _ ≤ (8191 : Int) * ((semis.toNat : Int) * 100 + cents.toNat) :=
        Int.mul_le_mul_of_nonneg_right (by omega) hrange0
      _ ≤ 105065957 := by omega

/-- The semitones of a total bend do not depend on `FINE`. -/
theorem bendSteps_div_fine {fine : Nat} (hfine : 1 ≤ fine) (bend : BitVec 14) (semis cents : BitVec 7) :
    bendSteps fine bend semis cents / (fine : Int) =
      ((bend.toNat : Int) - 8192) * ((semis.toNat : Int) * 100 + cents.toNat) / 819200 := by
  have hpos : (0 : Int) < fine := by omega
  rw [bendSteps, Int.ediv_ediv_of_nonneg (by decide), Int.mul_ediv_mul_of_pos_left _ _ hpos]

/-- The semitones of a total bend lie in −129..128. -/
theorem bendSteps_div_fine_bounds {fine : Nat} (hfine : 1 ≤ fine) (bend : BitVec 14) (semis cents : BitVec 7) :
    -129 ≤ bendSteps fine bend semis cents / (fine : Int) ∧ bendSteps fine bend semis cents / (fine : Int) ≤ 128 := by
  have hbounds := bend_mul_range_bounds bend semis cents
  rw [bendSteps_div_fine hfine]
  omega

/-- The nine bits of `keyOffset` hold the semitones (10_state.md R40). -/
theorem bendCalc_keyOffset_toInt {fine : Nat} (hfine : 1 ≤ fine) (k : Chan) :
    (bendCalc fine k).keyOffset.toInt = bendSteps fine k.bend k.bendSemis k.bendCents / (fine : Int) := by
  have hbounds := bendSteps_div_fine_bounds hfine k.bend k.bendSemis k.bendCents
  rw [bendCalc, BitVec.toInt_ofInt, Int.bmod_eq_of_le (by omega) (by omega)]

theorem bendCalc_keyDetune {fine : Nat} (hfine : 1 ≤ fine) (k : Chan) :
    ((bendCalc fine k).keyDetune : Int) = bendSteps fine k.bend k.bendSemis k.bendCents % (fine : Int) :=
  Int.toNat_of_nonneg (Int.emod_nonneg _ (by omega))

/-- Settles O35: offset and detune index are quotient and remainder of the total bend by `FINE`, and the total bend is
the floor. -/
theorem bendCalcArithmetic : Obligations.BendCalcArithmetic := by
  intro fine k hfine r b range t
  have hoffset : r.keyOffset.toInt = _ := bendCalc_keyOffset_toInt hfine k
  have hdetune : (r.keyDetune : Int) = _ := bendCalc_keyDetune hfine k
  have hbounds := bendSteps_div_fine_bounds hfine k.bend k.bendSemis k.bendCents
  have ht : t = b * range * fine / 819200 := by
    rw [show t = r.keyOffset.toInt * fine + r.keyDetune from rfl, hoffset, hdetune]
    exact Int.ediv_mul_add_emod _ _
  have hlt : (r.keyDetune : Int) < fine := by
    rw [hdetune]
    exact Int.emod_lt_of_pos _ (by omega)
  rw [← hoffset] at hbounds
  obtain ⟨hlow, hhigh⟩ := hbounds
  exact ⟨by omega, by omega, hlow, hhigh, by omega, rfl⟩

/-! ### Pitch rewrites (R170, R176, R183) -/

/-- Settles O26: the pitch rewrite of the channel's voices, the detune set. -/
theorem detuneControllerRewritesPitch : Obligations.DetuneControllerRewritesPitch := by
  intro s ch val z he hv _
  obtain ⟨t, ht, hchan, hothers, hvoice, hout, hshadow, -, hframe⟩ :=
    s.setChan_applyPitch ch { s.chan ch with detune := detuneOf (seven val) }
  have hexec := exec_ctrl_of_lookup he (ctl := 94) (k := .detune) rfl hv ch z
  exact ⟨t, hexec.trans (congrArg _ ht), by rw [hchan, detuneOf_toInt, toNat_seven hv], by rw [hchan], hothers, hvoice,
    hout, hshadow, hframe⟩

/-- Everything BEND and Data Entry do once they have changed the channel to `k`: BendCalc, and the pitch rewrite of the
channel's voices. -/
theorem State.rebend_eq (s : State) (ch : BitVec 4) (k : Chan) :
    ∃ t, s.rebend ch k = t ∧ t.chan ch = bendCalc s.hw.fine k ∧ (∀ c, c ≠ ch → t.chan c = s.chan c) ∧
      (∀ w, w < s.voices.length → t.voice w =
        if w ∈ s.activeOf ch then { s.voice w with pitch := t.lookupPitch w } else s.voice w) ∧
      t.out = s.out ++ (s.activeOf ch).flatMap t.pitchPhase ∧
      t.shadow = shadowAfter s.shadow ((s.activeOf ch).flatMap t.pitchPhase) ∧
      t = { s with chans := t.chans, voices := t.voices, out := t.out, shadow := t.shadow } := by
  obtain ⟨t, ht, hchan, hothers, hvoice, hout, hshadow, -, hframe⟩ :=
    s.setChan_applyPitch ch (bendCalc s.hw.fine k)
  exact ⟨t, ht, hchan, hothers, hvoice, hout, hshadow, hframe⟩

/-- Settles O34: the channel's bend is the 14-bit value, and the rest is `rebend`. -/
theorem bendRewritesPitch : Obligations.BendRewritesPitch := by
  intro s ch lsb msb z he hl hm _
  obtain ⟨t, ht, hchan, heffect⟩ := s.rebend_eq ch { s.chan ch with bend := bendValue (seven lsb) (seven msb) }
  have hbend : (t.chan ch).bend = bendValue (seven lsb) (seven msb) := by rw [hchan, bendCalc]
  exact ⟨t, (exec_bend_open s he hl hm).trans (congrArg _ ht),
    by rw [hbend, bendValue_toNat, toNat_seven hl, toNat_seven hm], by rw [hbend, hchan], heffect⟩

/-- Controllers 6 and 38 under the RPN (0, 0) set their field of the channel and recompute its bend. -/
theorem exec_ctrl_dataEntry (he : s.cfgerr = false) {ctl val : BitVec 8} (hv : val.toNat ≤ 127)
    (hctl : ctl.toNat = 6 ∨ ctl.toNat = 38) {ch : BitVec 4} (hrpn : (s.chan ch).rpn = 0) (z : BitVec 8) :
    ∃ k : Chan, exec (.ctrl ch ctl val z) s = .next (s.rebend ch k) ∧
      k.bendSemis.toNat = (if ctl.toNat = 6 then val.toNat else (s.chan ch).bendSemis.toNat) ∧
      k.bendCents.toNat = (if ctl.toNat = 38 then val.toNat else (s.chan ch).bendCents.toNat) ∧
      k = { s.chan ch with bendSemis := k.bendSemis, bendCents := k.bendCents } := by
  have hval := toNat_seven hv
  rcases hctl with h | h
  · have hexec := exec_ctrl_of_lookup he (k := .dataEntryMsb) (by rw [h]; rfl) hv ch z
    exact ⟨_, hexec.trans (congrArg _ (if_pos hrpn)), by simp [h, hval]⟩
  · have hexec := exec_ctrl_of_lookup he (k := .dataEntryLsb) (by rw [h]; rfl) hv ch z
    exact ⟨_, hexec.trans (congrArg _ (if_pos hrpn)), by simp [h, hval]⟩

/-- Settles O28: the bend range's one field changes, and the rest is `rebend`. -/
theorem dataEntrySetsBendRange : Obligations.DataEntrySetsBendRange := by
  intro s ch ctl val z he hv hctl hmsb hlsb _
  obtain ⟨k, hexec, hsemis, hcents, hk⟩ :=
    exec_ctrl_dataEntry he hv hctl ((s.chan ch).rpn_eq_zero_iff.2 ⟨hmsb, hlsb⟩) z
  obtain ⟨t, ht, hchan, heffect⟩ := s.rebend_eq ch k
  have hsemis' : (t.chan ch).bendSemis = k.bendSemis := by rw [hchan, bendCalc]
  have hcents' : (t.chan ch).bendCents = k.bendCents := by rw [hchan, bendCalc]
  exact ⟨t, hexec.trans (congrArg _ ht), by rw [hsemis', hsemis], by rw [hcents', hcents],
    by rw [hsemis', hcents', ← hk, hchan], heffect⟩

/-! ### PROG (R182) -/

/-- Settles O33: PROG writes one field of its channel. -/
theorem progStoresProgram : Obligations.ProgStoresProgram := by
  intro s ch prog z he hp
  refine ⟨_, exec_prog_open s he hp, ?_, ?_, fun c hc => ?_, rfl⟩
  · rw [State.progChange, State.chan_setChan_self, toNat_seven hp]
  · rw [State.progChange, State.chan_setChan_self]
  · rw [State.progChange, State.chan_setChan_of_ne _ _ hc]

end Sys2Proof.Machine
end

section
/-! Controllers 123 and 121: all voices of a channel released, and the soft reset. -/

namespace Sys2Proof.Machine

open Sys2Proof

variable {s : State} {v : Nat}

theorem shadowAfter_append (m : Memory) (l₁ l₂ : List OutItem) :
    shadowAfter m (l₁ ++ l₂) = shadowAfter (shadowAfter m l₁) l₂ :=
  List.foldl_append

/-! ### All Notes Off (41_event_commands.md R171) -/

/-- `t` is `s` with the voices `vs`, the whole active list of channel `c`, released one after the other. -/
structure ListReleased (s : State) (c : BitVec 4) (vs : List Nat) (t : State) : Prop where
  active : t.activeOf c = []
  others : ∀ d, d ≠ c → t.activeOf d = s.activeOf d
  free   : t.free = s.free ++ vs
  voices : ∀ w, t.voice w = if w ∈ vs then { s.voice w with on := false, owner := 16 } else s.voice w
  out    : t.out = s.out ++ vs.flatMap s.keyOffItem
  shadow : t.shadow = shadowAfter s.shadow (vs.flatMap s.keyOffItem)
  frame  : t = { s with voices := t.voices, free := t.free, active := t.active, out := t.out, shadow := t.shadow }

/-- A release keeps the last pitch of every voice, and so its key-off item (44_register_mapper.md R267). -/
theorem State.keyOffItem_releaseVoice (hv : v < s.voices.length) : (s.releaseVoice v).keyOffItem = s.keyOffItem := by
  funext w
  have hpitch : ((s.released v).voice w).pitch = (s.voice w).pitch := by
    rw [s.released_voice hv]
    split
    next h => rw [h]
    next => rfl
  rw [s.releaseVoice_eq hv, State.emitAll_keyOffItem, State.keyOffItem, hpitch]
  rfl

/-- The head of a channel's list released, and then the rest of it. -/
theorem ListReleased.cons (hc : Consistent s) {c : BitVec 4} {vs : List Nat} (ha : s.activeOf c = v :: vs) {t : State}
    (h : ListReleased (s.releaseVoice v) c vs t) : ListReleased s c (v :: vs) t := by
  have hmem : v ∈ s.activeOf c := by rw [ha]; exact List.mem_cons_self ..
  have hv := hc.lt_voices hmem
  have hrelease := s.releaseVoice_eq hv
  have hkeyOff := State.keyOffItem_releaseVoice hv
  obtain ⟨hactive, hothers, hfree, hvoices, hout, hshadow, hframe⟩ := h
  refine ⟨hactive, fun d hd => ?_, ?_, fun w => ?_, ?_, ?_, ?_⟩
  · rw [hothers d hd, hc.activeOf_releaseVoice hmem, if_neg hd]
  · rw [hfree, State.releaseVoice_free, List.append_assoc, List.singleton_append]
  · rw [hvoices, hrelease, State.emitAll_voice, s.released_voice hv]
    by_cases hw : w = v <;> simp [hw]
  · rw [hout, hkeyOff, hrelease, List.flatMap_cons, ← List.append_assoc]
    rfl
  · rw [hshadow, hkeyOff, hrelease, List.flatMap_cons, shadowAfter_append]
    rfl
  · rw [hframe, hrelease]
    rfl

/-- Releasing a channel's list oldest first releases all of it, each voice as the list stood at the start. -/
theorem Consistent.listReleased (hc : Consistent s) {c : BitVec 4} (vs : List Nat) (ha : s.activeOf c = vs) :
    ListReleased s c vs (vs.foldl State.releaseVoice s) := by
  induction vs generalizing s with
  | nil => exact ⟨ha, fun _ _ => rfl, by simp, by simp, by simp, rfl, rfl⟩
  | cons v vs ih =>
    have hmem : v ∈ s.activeOf c := by rw [ha]; exact List.mem_cons_self ..
    have hrest : (s.releaseVoice v).activeOf c = vs := by
      rw [hc.activeOf_releaseVoice hmem, if_pos rfl, ha, List.erase_cons_head]
    exact .cons hc ha (ih (hc.releaseVoice hmem) hrest)

/-- Settles O30: the loop runs over the channel's list as it stands. -/
theorem allNotesOffReleasesChannel : Obligations.AllNotesOffReleasesChannel := by
  intro s ch val z hc he hv
  obtain ⟨hactive, hothers, hfree, hvoices, hout, hshadow, hframe⟩ := hc.listReleased (s.activeOf ch) rfl
  exact ⟨_, exec_ctrl_of_lookup he (ctl := 123) (k := .allNotesOff) rfl hv ch z, hactive, hothers, hfree, hvoices,
    hout, hshadow, hframe⟩

/-! ### Reset All Controllers (41_event_commands.md R172, 70_reset_and_hazards.md R356) -/

/-- A state reset resets the pool and the channels (70_reset_and_hazards.md R354). -/
theorem PoolReset.stateReset (s : State) : PoolReset s.stateReset where
  table  := by simp [freshVoices]
  voices _ h := s.stateReset_voice h
  sorted := List.Pairwise.filter _ List.pairwise_lt_range
  free   := by simp [freshFree, Cfg.nv]
  active := s.stateReset_activeOf
  chans  := s.stateReset_chan

theorem flatMap_ite_nil {α β : Type} (p : α → Bool) (f : α → List β) (l : List α) :
    (l.flatMap fun x => if p x then f x else []) = (l.filter p).flatMap f := by
  induction l with
  | nil => rfl
  | cons x l ih => cases h : p x <;> simp [h, ih]

/-- Settles O31: the key-offs go out, and a state reset follows. -/
theorem resetAllControllersSoftResets : Obligations.ResetAllControllersSoftResets := by
  intro s ch val z he hv
  have hexec := exec_ctrl_of_lookup he (ctl := 121) (k := .resetAll) rfl hv ch z
  rw [State.control, s.softReset_eq, flatMap_ite_nil] at hexec
  exact ⟨_, _, hexec, .stateReset _, rfl, rfl, rfl, rfl⟩

/-- No voice is on after a state reset, and an index outside the table reads as a voice that is off. -/
theorem State.stateReset_voice_on (s : State) (v : Nat) : (s.stateReset.voice v).on = false := by
  by_cases h : v < s.hw.nvMax
  · rw [s.stateReset_voice h, Voice.fresh]
  · rw [State.voice, List.getD_eq_default _ _ (by simpa [freshVoices] using h), Voice.fresh]

/-- A soft reset with no voice on emits nothing. -/
theorem State.softReset_of_off (h : ∀ v, (s.voice v).on = false) : s.softReset = s.stateReset := by
  have hnone : ((List.range (s.cfg.nv s.hw)).flatMap fun v => if (s.voice v).on then s.keyOffItem v else []) = [] :=
    List.flatMap_eq_nil_iff.2 fun v _ => if_neg (by simp [h v])
  rw [s.softReset_eq, hnone, State.emitAll_nil]

theorem State.softReset_softReset (s : State) : s.softReset.softReset = s.softReset := by
  rw [s.softReset_eq, State.softReset_of_off (State.stateReset_voice_on _), State.stateReset_stateReset]

/-- Settles O32: a second soft reset changes nothing, and neither do closed gates. -/
theorem resetAllControllersIdempotent : Obligations.ResetAllControllersIdempotent := by
  intro s ch ch' val val' z z' he hv
  refine ⟨s.softReset, exec_ctrl_of_lookup he (ctl := 121) (k := .resetAll) rfl hv ch z, ?_⟩
  rw [exec_ctrl, gated_keeps (Q := (· = s.softReset)) rfl]
  exact s.softReset_softReset

end Sys2Proof.Machine
end

section
/-! The words the spec writes out, by their encodings. -/

namespace Sys2Proof

/-- A word that is the word of a command decodes to it. -/
theorem decode_eq_of_encode {w : Word} {i : Instr} (h : encode i = w) : decode w = i := by
  rw [← h, decodeOfEncode]

/-- Settles O4: each word is the word of the command beside it. -/
theorem specWordsDecode : Obligations.SpecWordsDecode := by
  unfold Obligations.SpecWordsDecode
  and_intros <;> exact decode_eq_of_encode rfl

end Sys2Proof
end

section
/-! The pitch position of a voice and the `REF` frequency models. -/

namespace Sys2Proof.Machine

open Sys2Proof

/-! ### The pitch position (42_frequency_model.md R204, R205) -/

theorem clamp_eq_max_min {x lo hi : Int} (h : lo ≤ hi) : clamp x lo hi = max lo (min x hi) := by
  unfold clamp
  split_ifs <;> omega

/-- The number of a model in the list is the number that looks it up. -/
theorem freqRom_of_getElem? {p : Params} {m : Nat} {model : FreqModel} (h : p.freqModels[m]? = some model) (n f : Nat) :
    freqRom p m n f = FreqModel.lookup model n f := by
  rw [freqRom, List.getD_eq_getElem?_getD, h, Option.getD_some]

/-- A position below `128 × FINE` is a note of 0..127 and a fraction below `FINE`. -/
theorem note_fraction_of_position {fine : Nat} {pos : Int} (h0 : 0 ≤ pos) (hlt : pos < 128 * (fine : Int)) :
    (pos / (fine : Int)).toNat ≤ 127 ∧ (pos % (fine : Int)).toNat < fine ∧
      ((pos / (fine : Int)).toNat * fine + (pos % (fine : Int)).toNat : Int) = pos := by
  have hfine : (0 : Int) < fine := by omega
  have hnote : ((pos / fine).toNat : Int) = pos / fine := Int.toNat_of_nonneg (Int.ediv_nonneg h0 hfine.le)
  have hfrac : ((pos % fine).toNat : Int) = pos % fine := Int.toNat_of_nonneg (Int.emod_nonneg _ hfine.ne')
  have hnote_lt : pos / fine < 128 := Int.ediv_lt_of_lt_mul hfine hlt
  have hfrac_lt : pos % fine < fine := Int.emod_lt_of_pos _ hfine
  refine ⟨by omega, by omega, ?_⟩
  rw [hnote, hfrac, Int.ediv_mul_add_emod]

/-- Settles O36: the clamp keeps the position in `0 .. 128 × FINE − 1`, and such a position is a note and a fraction. -/
theorem notePosClamps : Obligations.NotePosClamps := by
  intro s v hfine x k p
  have hclamp : pitchPosition s.hw.fine x k (s.trec x.timbre .transpose) = max 0 (min p (128 * s.hw.fine - 1)) :=
    clamp_eq_max_min (by omega)
  obtain ⟨hnote, hfrac, hsum⟩ := note_fraction_of_position (fine := s.hw.fine)
    (pos := pitchPosition s.hw.fine x k (s.trec x.timbre .transpose)) (by omega) (by omega)
  exact ⟨hnote, hfrac, hsum.trans hclamp, fun m hm => freqRom_of_getElem? hm _ _⟩

/-! ### The `REF` frequency models (R206 to R208) -/

/-- `BASE[f][s]` (R207). -/
def refBase (s f : Nat) : Nat := (baseTable.getD f []).getD s 0

theorem refBase_bounds : ∀ f < 32, ∀ s < 12, 343 ≤ refBase s f ∧ refBase s f ≤ 685 := by decide

/-- Every entry is `343 × 2^((32 s + f) / 384)` rounded half up, by the 384th powers of its rounding interval. -/
theorem refBase_rounds : ∀ f < 32, ∀ s < 12,
    ((2 * refBase s f - 1) ^ 128) ^ 3 ≤ (686 ^ 128) ^ 3 * (2 ^ 32) ^ s * 2 ^ f ∧
      (686 ^ 128) ^ 3 * (2 ^ 32) ^ s * 2 ^ f < ((2 * refBase s f + 1) ^ 128) ^ 3 := by decide

/-- The F-number of octave `o` from the base table's entry (R206). -/
def refFnum (o base : Nat) : Nat :=
  if o = 0 then base / 2 else if o ≤ 8 then base else if o = 9 then min 1023 (2 * base) else min 1023 (4 * base)

theorem refFnum_lt {o base : Nat} (h : base ≤ 685) : refFnum o base < 1024 := by
  unfold refFnum
  split_ifs <;> omega

/-- The shift past octave 8 is one doubling or two, since a note lies in octaves 0 to 10. -/
theorem refExp_eq_append {n : Nat} (hn : n ≤ 127) (f : Nat) :
    refExp n f = BitVec.ofNat 3 (min (n / 12 - 1) 7) ++ BitVec.ofNat 10 (refFnum (n / 12) (refBase (n % 12) f)) := by
  have ho : n / 12 ≤ 10 := by omega
  simp only [refExp, refFnum, refBase]
  generalize (baseTable.getD f []).getD (n % 12) 0 = base
  generalize n / 12 = o at ho
  split_ifs with h0 h8 h9
  · rw [h0, Nat.shiftRight_one]
    rfl
  · rw [min_eq_left (by omega)]
  · rw [h9, Nat.shiftLeft_eq, Nat.mul_comm]
    rfl
  · obtain rfl : o = 10 := by omega
    rw [Nat.shiftLeft_eq, Nat.mul_comm]
    rfl

/-- The block is the top three bits of the thirteen, the F-number the rest. -/
theorem toNat_extract_append (block : BitVec 3) (fnum : BitVec 10) :
    ((block ++ fnum).extractLsb' 10 3).toNat = block.toNat ∧ ((block ++ fnum).extractLsb' 0 10).toNat = fnum.toNat := by
  have hb := block.isLt
  have hf := fnum.isLt
  simp only [BitVec.extractLsb'_toNat, Nat.shiftRight_eq_div_pow, toNat_append_sum]
  omega

theorem refExp_fields {n f : Nat} (hn : n ≤ 127) (hf : f < 32) :
    ((refExp n f).extractLsb' 10 3).toNat = min (n / 12 - 1) 7 ∧
      ((refExp n f).extractLsb' 0 10).toNat = refFnum (n / 12) (refBase (n % 12) f) := by
  have hbase := refBase_bounds f hf (n % 12) (Nat.mod_lt _ (by decide))
  have hfnum := refFnum_lt (o := n / 12) hbase.2
  obtain ⟨hblock, hlow⟩ := toNat_extract_append (BitVec.ofNat 3 (min (n / 12 - 1) 7))
    (BitVec.ofNat 10 (refFnum (n / 12) (refBase (n % 12) f)))
  rw [refExp_eq_append hn, hblock, hlow, BitVec.toNat_ofNat, BitVec.toNat_ofNat]
  exact ⟨Nat.mod_eq_of_lt (by omega), Nat.mod_eq_of_lt hfnum⟩

/-- Settles O42: the table's entries are checked one by one, and the fields of a looked-up pitch are those it is
appended from. -/
theorem refFrequencyModels : Obligations.RefFrequencyModels := by
  intro chiptype fullpan n f hn hf p base
  have hs : n % 12 < 12 := Nat.mod_lt _ (by decide)
  obtain ⟨hlow, hhigh⟩ := refBase_bounds f hf _ hs
  obtain ⟨hbelow, habove⟩ := refBase_rounds f hf _ hs
  obtain ⟨hblock, hfnum⟩ := refExp_fields hn hf
  exact ⟨rfl, hlow, hhigh, hbelow, habove, hblock, hfnum, rfl⟩

end Sys2Proof.Machine
end

section
/-! The inputs of the volume lookup and the `REF` volume models. -/

namespace Sys2Proof.Machine

open Sys2Proof

/-! ### The inputs of the lookup (43_volume_model.md R222, R223) -/

/-- The clamped sum lies in 0..127, so its seven bits lose nothing. -/
theorem velocityPlus_toNat (vel : BitVec 7) (veloff : Byte) :
    ((velocityPlus vel veloff).toNat : Int) = max 0 (min (vel.toNat + veloff.toInt) 127) := by
  rw [velocityPlus, sext8, clamp_eq_max_min (by decide), BitVec.toNat_ofInt]
  omega

/-- The number of a model in the list is the number that looks it up. -/
theorem volFn_of_getElem? {p : Params} {m : Nat} {model : VolModel} (h : p.volModels[m]? = some model)
    (x : VolumeInput) : volFn p m x = VolModel.lookup model x := by
  rw [volFn, List.getD_eq_getElem?_getD, h, Option.getD_some]

/-- Settles O37: the clamp keeps the velocity in its seven bits, a base level is the low six bits of its byte, and the
model is the one numbered `VOLSEL`. -/
theorem velocityOffsetClamps : Obligations.VelocityOffsetClamps := by
  intro s v x k inp
  have htlMod : inp.tlMod.toNat = (s.trec x.timbre (.level 0)).toNat % 64 := BitVec.toNat_setWidth ..
  have htlCar : inp.tlCar.toNat = (s.trec x.timbre (.level 1)).toNat % 64 := BitVec.toNat_setWidth ..
  have hconn : inp.conn = decide ((s.trec x.timbre .fbconn).toNat % 2 = 1) := Nat.testBit_zero _
  exact ⟨velocityPlus_toNat _ _, rfl, rfl, rfl, rfl, htlMod, htlCar, hconn, rfl, rfl,
    fun _ hm => volFn_of_getElem? hm inp⟩

/-! ### The `REF` volume models (R225, R226, R228) -/

/-- A factor of at most 127 scales down: the bound R228 argues from. -/
theorem mul_div_127_le (a : Nat) {y : Nat} (hy : y ≤ 127) : a * y / 127 ≤ a :=
  Nat.div_le_of_le_mul ((Nat.mul_le_mul_left a hy).trans_eq (Nat.mul_comm a 127))

theorem toNat_le_127 (q : BitVec 7) : q.toNat ≤ 127 := Nat.le_of_lt_succ q.isLt

/-- Each of the three factors scales a velocity of at most 127 down. -/
theorem refGain_le_127 (x : VolumeInput) : refGain x ≤ 127 :=
  calc refGain x
    _ ≤ x.velp.toNat * x.vol.toNat / 127 * x.expr.toNat / 127 := mul_div_127_le _ (toNat_le_127 _)
    _ ≤ x.velp.toNat * x.vol.toNat / 127 := mul_div_127_le _ (toNat_le_127 _)
    _ ≤ x.velp.toNat := mul_div_127_le _ (toNat_le_127 _)
    _ ≤ 127 := toNat_le_127 _

theorem refScale_bounds (tl : BitVec 6) {y : Nat} (hy : y ≤ 127) :
    tl.toNat ≤ (refScale tl y).toNat ∧ (refScale tl y).toNat ≤ 63 := by
  have hscaled := mul_div_127_le (63 - tl.toNat) hy
  rw [refScale_toNat]
  omega

/-- What scales the modulator of `REF-LIN` (R225): the gain where the modulator is heard. -/
def refLinModFactor (x : VolumeInput) : Nat :=
  if x.conn = true ∨ x.additive = true then refGain x else x.bright.toNat

theorem refLin_mod6 (x : VolumeInput) : (refLin x).mod6 = refScale x.tlMod (refLinModFactor x) := by
  simp only [refLin, refLinModFactor, Bool.or_eq_true, apply_ite (refScale x.tlMod)]

theorem refLinModFactor_le_127 (x : VolumeInput) : refLinModFactor x ≤ 127 := by
  unfold refLinModFactor
  split_ifs
  · exact refGain_le_127 x
  · exact toNat_le_127 _

/-- Settles O38: every attenuation of the two models is a base level scaled by the gain or the brightness, and neither
factor is above 127. -/
theorem refVolumeBounds : Obligations.RefVolumeBounds := by
  intro chiptype fullpan x p gain scaled
  have hlin : volFn p 0 x = refLin x := rfl
  have hcar : volFn p 1 x = refCar x := rfl
  have hcarrier := refScale_bounds x.tlCar (refGain_le_127 x)
  refine ⟨rfl, refScale_toNat _ _, ?_, refScale_toNat _ _, refScale_toNat _ _, fun m hm => ?_⟩
  · rw [hlin, refLin_mod6]
    exact refScale_toNat _ _
  · obtain rfl | rfl : m = 0 ∨ m = 1 := by omega
    · obtain ⟨hlow, hhigh⟩ := refScale_bounds x.tlMod (refLinModFactor_le_127 x)
      rw [hlin, refLin_mod6]
      exact ⟨hlow, hhigh, hcarrier⟩
    · obtain ⟨hlow, hhigh⟩ := refScale_bounds x.tlMod (toNat_le_127 x.bright)
      rw [hcar]
      exact ⟨hlow, hhigh, hcarrier⟩

end Sys2Proof.Machine
end

section
/-! The slots of a voice that a command can reach, and `OPMODE`, which says nothing about them. -/

namespace Sys2Proof.Machine

open Sys2Proof

variable {s : State} {v : Nat}

/-! ### The voices a command can reach (44_register_mapper.md R245) -/

/-- The rhythm channels, local slots 18 to 22, are reserved in and out of the rhythm mode. -/
theorem refReserved_of_ge_18 (capChiptype rhythm : Bool) (pairs : Nat) {ls : Nat} (hlo : 18 ≤ ls) (hhi : ls < 23) :
    refReserved capChiptype rhythm pairs ls = true := by
  have hrhythm : ∀ r : Bool, ∀ d < 5, ∃ w ∈ rhythmWrites r, w.1 = 18 + d := by decide
  have hwrite : ∃ w ∈ rhythmWrites rhythm, w.1 = ls := by
    have h := hrhythm rhythm (ls - 18) (by omega)
    rwa [Nat.add_sub_of_le hlo] at h
  rw [refReserved, Bool.or_eq_true, decide_eq_true_eq]
  exact .inl (.inr hwrite)

/-- In a consistent `REF` state the live unreserved voices are two-operator melodic channels. -/
theorem Consistent.mod_23_lt_18 {capChiptype capFullpan : Bool} (h : Consistent s)
    (href : s.hw = refParams capChiptype capFullpan) (hv : v < s.cfg.nchips.toNat * 23)
    (hres : (s.voice v).reserved = false) : v % 23 < 18 := by
  have hnv : s.cfg.nv s.hw = s.cfg.nchips.toNat * 23 := by rw [href]; rfl
  rw [h.reserved_eq (hnv ▸ hv), href] at hres
  obtain ⟨⟨-, hchips, hpairs, -⟩, -⟩ := h
  have hchips : s.cfg.nchips.toNat ≤ 6 := hchips
  have hslot := reservedAt_ref (capChiptype := capChiptype) (capFullpan := capFullpan) (c := s.cfg)
    (chip := v / 23) (ls := v % 23) (by omega) (by omega) (by omega)
  rw [Nat.div_add_mod'] at hslot
  by_contra hge
  rw [hslot, refReserved_of_ge_18 _ _ _ (by omega) (by omega)] at hres
  exact absurd hres (by decide)

/-- The maps of both operating modes have the same row for the voice's slot (R248). -/
def State.RowsAgree (s : State) (v : Nat) : Prop :=
  s.hw.opmapInv.getD (s.localSlot v) ⟨none, none⟩ = s.hw.opmapStd.getD (s.localSlot v) ⟨none, none⟩

theorem refOpmap_rows_agree : ∀ ls < 18, refOpmapInv.getD ls ⟨none, none⟩ = refOpmapStd.getD ls ⟨none, none⟩ := by
  decide

theorem State.RowsAgree.of_ref {capChiptype capFullpan : Bool} (href : s.hw = refParams capChiptype capFullpan)
    (hv : v % 23 < 18) : s.RowsAgree v := by
  rw [State.RowsAgree, State.localSlot, href]
  exact refOpmap_rows_agree _ hv

/-- The operating mode says nothing about a voice that `FREE` or an active list holds. -/
theorem Consistent.rowsAgree {capChiptype capFullpan : Bool} (h : Consistent s)
    (href : s.hw = refParams capChiptype capFullpan) (hv : v ∈ s.pool) : s.RowsAgree v := by
  have hnv : s.cfg.nv s.hw = s.cfg.nchips.toNat * 23 := by rw [href]; rfl
  obtain ⟨hlive, hres⟩ := h.mem_pool_iff.1 hv
  exact .of_ref href (h.mod_23_lt_18 href (hnv ▸ hlive) hres)

theorem State.RowsAgree.of_hw {t : State} (h : s.RowsAgree v) (hw : t.hw = s.hw) : t.RowsAgree v := by
  rw [State.RowsAgree, State.localSlot, hw]
  exact h

/-- Where the rows agree the operating mode selects neither. -/
theorem State.RowsAgree.opRow_eq (h : s.RowsAgree v) :
    s.opRow (s.localSlot v) = s.hw.opmapStd.getD (s.localSlot v) ⟨none, none⟩ := by
  unfold State.opRow
  split
  · exact h
  · rfl

/-! ### The state with another `OPMODE` -/

/-- `s` with operating mode `b`. -/
def State.withOpmode (b : Bool) (s : State) : State := { s with cfg := { s.cfg with opmode := b } }

variable (b : Bool)

@[simp] theorem State.withOpmode_free (s : State) : (s.withOpmode b).free = s.free := rfl
@[simp] theorem State.withOpmode_voice (s : State) (v : Nat) : (s.withOpmode b).voice v = s.voice v := rfl
@[simp] theorem State.withOpmode_chan (s : State) (c : BitVec 4) : (s.withOpmode b).chan c = s.chan c := rfl
@[simp] theorem State.withOpmode_activeOf (s : State) (c : BitVec 4) :
    (s.withOpmode b).activeOf c = s.activeOf c := rfl

/-- `f` does the same whatever the operating mode is, and leaves that mode as it is. -/
def IgnoresOpmode (b : Bool) (f : State → State) (s : State) : Prop := f (s.withOpmode b) = (f s).withOpmode b

theorem State.mapOp_withOpmode (h : s.RowsAgree v) (op : Fin 2) :
    (s.withOpmode b).mapOp v (op.castLE (by decide)) = s.mapOp v (op.castLE (by decide)) := by
  have h' : (s.withOpmode b).RowsAgree v := h
  have hrow : (s.withOpmode b).opRow (s.localSlot v) = s.opRow (s.localSlot v) := h'.opRow_eq.trans h.opRow_eq.symm
  rw [State.mapOp_own, State.mapOp_own]
  exact congrArg (fun r : OpRow => singlePort s.hw (if op = 0 then r.mod else r.car)) hrow

theorem State.volumePhase_withOpmode (h : s.RowsAgree v) :
    (s.withOpmode b).volumePhase v = s.volumePhase v := by
  have h0 : (s.withOpmode b).mapOp v 0 = s.mapOp v 0 := State.mapOp_withOpmode b h 0
  have h1 : (s.withOpmode b).mapOp v 1 = s.mapOp v 1 := State.mapOp_withOpmode b h 1
  rw [State.volumePhase, h0, h1]
  rfl

namespace IgnoresOpmode

variable {b}

/-- One operation after the other. -/
theorem comp {f g : State → State} (hf : IgnoresOpmode b f s) (hg : IgnoresOpmode b g (f s)) :
    IgnoresOpmode b (fun s => g (f s)) s := (congrArg g hf).trans hg

/-- A loop over a channel's voices, each turn of which ignores the mode whatever the state. -/
theorem forActive {f : State → Nat → State} (hf : ∀ s v, IgnoresOpmode b (fun s => f s v) s) (c : BitVec 4)
    (s : State) : IgnoresOpmode b (fun s => s.forActive c f) s :=
  List.foldl_hom (State.withOpmode b) hf

/-- A choice that the mode does not decide. -/
theorem ite {p : State → Prop} [DecidablePred p] {f g : State → State} (hp : p (s.withOpmode b) ↔ p s)
    (hf : p s → IgnoresOpmode b f s) (hg : ¬ p s → IgnoresOpmode b g s) :
    IgnoresOpmode b (fun s => if p s then f s else g s) s := by
  by_cases h : p s
  · simpa only [IgnoresOpmode, if_pos h, if_pos (hp.2 h)] using hf h
  · simpa only [IgnoresOpmode, if_neg h, if_neg (hp.not.2 h)] using hg h

theorem gated {g : Bool} {f : State → State} (hf : IgnoresOpmode b f s) : IgnoresOpmode b (gated g f) s :=
  ite (p := fun s => s.cfgerr = true) (f := id) Iff.rfl (fun _ => rfl) fun _ =>
    ite (p := fun _ => g = true) (g := id) Iff.rfl (fun _ => hf) fun _ => rfl

/-! #### The write procedures -/

theorem applyOperator (h : s.RowsAgree v) (r : BitVec 9) (op : Fin 2) :
    IgnoresOpmode b (fun s => s.applyOperator v r op) s := by
  simp only [IgnoresOpmode, State.applyOperator_eq, State.mapOp_withOpmode b h]
  rfl

/-- The last write of the timbre phase, with its operands as the state gives them. -/
theorem writeFbconn (s : State) (v : Nat) (r : BitVec 9) :
    IgnoresOpmode b (fun s => s.writeVoiceReg v s.hw.banks.fbconn (s.mapPan v)
      (fbconnByte (s.trec r .fbconn) (s.panBits (s.voice v).chanIndex))) s := by
  simp only [IgnoresOpmode, State.writeVoiceReg_eq]
  rfl

theorem applyTimbre (h : s.RowsAgree v) (r : BitVec 9) : IgnoresOpmode b (fun s => s.applyTimbre v r) s := by
  refine ite (p := fun s => (s.voice v).timbre = r) (f := id) Iff.rfl (fun _ => rfl) fun _ => ?_
  have hrecord : IgnoresOpmode b (fun s => s.setVoice v { s.voice v with timbre := r }) s := rfl
  have h0 : (s.setVoice v { s.voice v with timbre := r }).RowsAgree v := h
  have h1 : ((s.setVoice v { s.voice v with timbre := r }).applyOperator v r 0).RowsAgree v :=
    h0.of_hw (by rw [State.applyOperator_eq]; rfl)
  exact ((hrecord.comp (applyOperator h0 r 0)).comp (applyOperator h1 r 1)).comp (writeFbconn _ v r)

theorem applyVolume (h : s.RowsAgree v) : IgnoresOpmode b (fun s => s.applyVolume v) s := by
  simp only [IgnoresOpmode, State.applyVolume_eq, State.volumePhase_withOpmode b h]
  rfl

theorem applyPitch (s : State) (v : Nat) : IgnoresOpmode b (fun s => s.applyPitch v true) s := by
  simp only [IgnoresOpmode, State.applyPitch_eq]
  rfl

theorem applyPan (s : State) (v : Nat) : IgnoresOpmode b (fun s => s.applyPan v) s := by
  simp only [IgnoresOpmode, State.applyPan_eq]
  rfl

theorem startNote (h : s.RowsAgree v) (r : BitVec 9) : IgnoresOpmode b (fun s => s.startNote v r) s := by
  have hw := (EventFrame.applyTimbre (P := fun _ => True) (s := s) (v := v)
    ⟨fun _ _ _ => trivial, fun _ _ _ _ => trivial⟩ r).hw
  exact (((applyTimbre h r).comp (applyVolume (h.of_hw hw))).comp (applyPitch _ v)).comp (applyPan _ v)

/-! #### The pool's operations and the events -/

theorem releaseVoice (s : State) (v : Nat) : IgnoresOpmode b (fun s => s.releaseVoice v) s := by
  simp only [IgnoresOpmode, State.releaseVoice, State.keyOffWrite_eq]
  rfl

theorem noteOff (s : State) (ch : BitVec 4) (key : BitVec 7) : IgnoresOpmode b (fun s => s.noteOff ch key) s := by
  have hfind : (s.withOpmode b).findNote ch key = s.findNote ch key := rfl
  cases hf : s.findNote ch key with
  | none => simp only [IgnoresOpmode, s.noteOff_of_none hf, State.noteOff_of_none _ (hfind.trans hf)]
  | some v =>
    simp only [IgnoresOpmode, s.noteOff_of_some hf, State.noteOff_of_some _ (hfind.trans hf)]
    exact releaseVoice s v

end IgnoresOpmode

theorem State.allocateOrSteal_withOpmode (s : State) :
    (s.withOpmode b).allocateOrSteal = (s.allocateOrSteal.1, s.allocateOrSteal.2.withOpmode b) := by
  have halloc : ∀ s : State, (s.withOpmode b).allocate = (s.allocate.1, s.allocate.2.withOpmode b) := fun s => by
    unfold State.allocate
    rw [State.withOpmode_free]
    split <;> rfl
  have hoff := IgnoresOpmode.noteOff (b := b) s Config.PERC_CH
  unfold State.allocateOrSteal
  rw [State.withOpmode_free, State.withOpmode_activeOf]
  split
  · exact halloc s
  · split
    · rfl
    next h _ _ => exact (congrArg State.allocate (hoff (s.voice h).key)).trans (halloc _)

namespace IgnoresOpmode

variable {b} {capChiptype capFullpan : Bool}

/-- A NOTEON that starts a note starts it on a live unreserved voice. -/
theorem noteOn (hs : Consistent s) (href : s.hw = refParams capChiptype capFullpan) (ch : BitVec 4)
    (key vel : BitVec 7) : IgnoresOpmode b (fun s => s.noteOn ch key vel) s := by
  have hsteal := s.allocateOrSteal_withOpmode b
  by_cases hm : s.cfg.maxchan < ch
  · simp only [IgnoresOpmode, State.noteOn_of_maxchan_lt hm,
      State.noteOn_of_maxchan_lt (s := s.withOpmode b) hm]
  by_cases hvel : vel = 0
  · have hoff : ∀ s : State, ¬ s.cfg.maxchan < ch → s.noteOn ch key vel = s.noteOff ch key := fun s hm => by
      rw [State.noteOn, if_neg hm, if_pos hvel]
    rw [IgnoresOpmode, hoff s hm, hoff (s.withOpmode b) hm]
    exact noteOff s ch key
  rcases hs.allocateOrSteal with e | ⟨u, v, rest, hu, hcfg, hf, e⟩ <;> rw [e] at hsteal
  · simp only [IgnoresOpmode, State.noteOn, if_neg hm, if_neg hvel, e, hsteal, ite_self]
  · have huhw : u.hw = s.hw := by
      have := (EventFrame.allocateOrSteal (ItemsHave.trivial s)).1.hw
      rwa [e] at this
    have hfree : v ∈ u.free := by rw [hf]; exact List.mem_cons_self ..
    have hrows : ((u.setFree rest).bindVoice v ch key vel).RowsAgree v :=
      hu.rowsAgree (huhw.trans href) (State.mem_pool.2 (.inl hfree))
    rw [IgnoresOpmode, State.noteOn_of_some (BitVec.not_lt.1 hm) key hvel e,
      State.noteOn_of_some (s := s.withOpmode b) (BitVec.not_lt.1 hm) key hvel hsteal]
    exact startNote hrows _

theorem setVolumeField (hs : Consistent s) (href : s.hw = refParams capChiptype capFullpan) (ch : BitVec 4)
    (k : Chan) : IgnoresOpmode b (fun s => s.setVolumeField ch k) s := by
  have hphase : (s.activeOf ch).flatMap ((s.setChan ch k).withOpmode b).volumePhase =
      (s.activeOf ch).flatMap (s.setChan ch k).volumePhase := List.flatMap_congr fun v hv =>
    State.volumePhase_withOpmode (s := s.setChan ch k) b (hs.rowsAgree href (State.mem_pool.2 (.inr ⟨ch, hv⟩)))
  have hset : (s.withOpmode b).setChan ch k = (s.setChan ch k).withOpmode b := rfl
  simp only [IgnoresOpmode, State.setVolumeField, State.forActive_applyVolume, hset, State.withOpmode_activeOf,
    State.setChan_activeOf, hphase]
  rfl

theorem setChan_applyPitch (s : State) (ch : BitVec 4) (k : Chan) :
    IgnoresOpmode b (fun s => (s.setChan ch k).forActive ch fun s v => s.applyPitch v true) s :=
  comp (f := fun s => s.setChan ch k) rfl (forActive applyPitch ch _)

theorem softReset (s : State) : IgnoresOpmode b State.softReset s := by
  simp only [IgnoresOpmode, State.softReset_eq]
  rfl

theorem fullReset (s : State) : IgnoresOpmode b State.fullReset s := by
  simp only [IgnoresOpmode, State.fullReset_eq]
  rfl

theorem control (hs : Consistent s) (href : s.hw = refParams capChiptype capFullpan) (ch : BitVec 4)
    (ctl : Controller) (val : BitVec 7) : IgnoresOpmode b (fun s => s.control ch ctl val) s := by
  cases ctl with
  | volume | expression | brightness => exact setVolumeField hs href ch _
  | pan => exact comp (f := fun s => s.setChan ch _) rfl (forActive applyPan ch _)
  | detune => exact setChan_applyPitch s ch _
  | allNotesOff => exact forActive releaseVoice ch s
  | resetAll => exact softReset s
  | rpnMsb | rpnLsb => rfl
  | dataEntryMsb | dataEntryLsb =>
    exact ite (p := fun s => (s.chan ch).rpn = 0) (g := id) Iff.rfl (fun _ => setChan_applyPitch s ch _) fun _ => rfl

theorem controlChange (hs : Consistent s) (href : s.hw = refParams capChiptype capFullpan) (ch : BitVec 4)
    (ctl val : BitVec 7) : IgnoresOpmode b (fun s => s.controlChange ch ctl val) s := by
  simp only [IgnoresOpmode, State.controlChange]
  split
  · exact control hs href ch _ val
  · rfl

theorem timbreWrite (s : State) (addr : BitVec 12) (data : Byte) :
    IgnoresOpmode b (fun s => s.timbreWrite addr data) s := by
  simp only [IgnoresOpmode, State.timbreWrite]
  split <;> rfl

end IgnoresOpmode

/-- Settles O57, command by command: the operating mode shows only in the operator map's rows of the rhythm channels,
and a command writes operator registers of live unreserved voices alone. -/
theorem opmodeIsUnobservable : Obligations.OpmodeIsUnobservable := by
  intro i s t capChiptype capFullpan b href hs hcfg h
  have hnext : ∀ f : State → State, IgnoresOpmode b f s →
      (.next (f (s.withOpmode b)) : Host.Outcome State Fault Refusal) = .next ((f s).withOpmode b) :=
    fun _ hf => congrArg _ hf
  cases i with
  | nop | reserved3 | reserved4 | reserved5 | reserved6 | reserved7 | reservedA | reservedD => cases h; rfl
  | cfg idx val z => exact absurd rfl (hcfg idx val z)
  | tbwr addr data z => cases h; exact hnext _ (.timbreWrite s addr data)
  | noteoff ch key vel z => cases h; exact hnext _ (.gated (.noteOff s ch _))
  | noteon ch key vel z => cases h; exact hnext _ (.gated (.noteOn hs href ch _ _))
  | ctrl ch ctl val z => cases h; exact hnext _ (.gated (.controlChange hs href ch _ _))
  | prog ch prog z => cases h; exact hnext _ (.gated rfl)
  | bend ch lsb msb z => cases h; exact hnext _ (.gated (.setChan_applyPitch s ch _))
  | reset z => cases h; exact hnext _ (.fullReset s)

end Sys2Proof.Machine
end

section
/-! The registers a voice writes: which chip and slot an address names, and the items no command emits. -/

namespace Sys2Proof.Machine

open Sys2Proof

variable {s : State} {v : Nat}

/-! ### The second register set (44_register_mapper.md R251) -/

theorem lt_0x100_of_singlePort {p : Params} (hp : p.capChiptype = false) {o : Option (BitVec 9)} {x : BitVec 9}
    (h : singlePort p o = some x) : x.toNat < 0x100 := by
  obtain ⟨-, hx⟩ := Option.filter_eq_some_iff.1 h
  simpa [hp] using hx

/-- Settles O39: all three maps end in the filter of a single-port chip. -/
theorem singlePortMaps : Obligations.SinglePortMaps := by
  rintro s v op o hp (h | h | h) <;> exact lt_0x100_of_singlePort hp h

/-! ### Pan items (R269) -/

theorem kind_ne_pan_of_mem_fullResetItems {p : Params} {c : Cfg} {x : OutItem} (hx : x ∈ fullResetItems p c) :
    x.kind ≠ .pan := by
  rw [fullResetItems, List.mem_cons] at hx
  rcases hx with rfl | hx
  · exact nofun
  · obtain ⟨chip, -, hx⟩ := List.mem_flatMap.1 hx
    unfold initItems at hx
    split at hx
    · simp only [List.cons_append, List.nil_append, List.mem_cons, List.not_mem_nil, or_false] at hx
      rcases hx with rfl | rfl | rfl <;> exact nofun
    · simp only [List.cons_append, List.nil_append, List.mem_cons, List.not_mem_nil, or_false] at hx
      rcases hx with rfl | rfl <;> exact nofun

/-- What a write procedure emits but for the pan item is a register write. -/
theorem kind_eq_reg_of_mem_regItem {b : BitVec 9} {o : Option (BitVec 9)} {d : Byte} {x : OutItem}
    (hx : x ∈ s.regItem v b o d) : x.kind = .reg := by
  cases o with
  | none => simp [State.regItem] at hx
  | some y => rw [List.mem_singleton.1 hx]

/-- Settles O45: with `CAP_FULLPAN` 0 the write procedures emit register writes alone, and a full reset sends `RST` and
register writes. -/
theorem panItemsNeedFullPan : Obligations.PanItemsNeedFullPan := by
  intro i s t hcap h
  rcases exec_cases h with hf | ⟨e, c, m, r, rfl⟩ | ⟨c, rfl⟩
  · have hitems : ItemsHave (fun x => x.kind ≠ .pan) s := fun v _ =>
      ⟨fun _ x hx => by rw [kind_eq_reg_of_mem_regItem hx]; exact nofun, fun hpan => by simp [hcap] at hpan⟩
    obtain ⟨items, ho, -, hx⟩ := (hf _ hitems).output
    exact ⟨items, ho, hx⟩
  · exact ⟨[], (List.append_nil _).symm, by simp⟩
  · exact ⟨_, State.fullReset_out _, fun _ => kind_ne_pan_of_mem_fullResetItems⟩

/-! ### The address of a voice's register names the voice (R274) -/

/-- The local slot whose register stands at offset `off` of a `REF` chip: nine slots to a register set, and in it the
channel registers count slots from their bank's base, the operator registers three slots to eight offsets. -/
def refSlotAt (off : Nat) : Nat :=
  9 * (off / 0x100) +
    if 0xA0 ≤ off % 0x100 ∧ off % 0x100 < 0xD0 then off % 16 else off % 32 / 8 * 3 + off % 8 % 3

/-- The modulator's offset of a melodic slot (R247): three slots to eight offsets of their register set. -/
def refModOffset (ls : Nat) : BitVec 9 := BitVec.ofNat 9 (256 * (ls / 9) + 8 * (ls % 9 / 3) + ls % 3)

theorem refOpmapStd_getD : ∀ ls < 18, refOpmapStd.getD ls ⟨none, none⟩ = pairAt (refModOffset ls) := by decide

theorem refModOffset_toNat {set g j : Nat} (hset : set < 2) (hg : g < 3) (hj : j < 3) :
    (refModOffset (9 * set + 3 * g + j)).toNat = 256 * set + 8 * g + j := by
  have hset' : (9 * set + 3 * g + j) / 9 = set := by omega
  have hinset : (9 * set + 3 * g + j) % 9 / 3 = g := by omega
  have hrest : (9 * set + 3 * g + j) % 3 = j := by omega
  rw [refModOffset, BitVec.toNat_ofNat, hset', hinset, hrest, Nat.mod_eq_of_lt (by omega)]

/-- The channel offset of a slot (R249, R250): the slot's number in its register set. -/
theorem refChmap_offset : ∀ ls < 18,
    refChmapPitch.getD ls none = some (BitVec.ofNat 9 (256 * (ls / 9) + ls % 9)) ∧
    refChmapPan.getD ls none = some (BitVec.ofNat 9 (256 * (ls / 9) + ls % 9)) := by
  decide

theorem refSlotAt_operator_offset {k set g j : Nat} (hk : k < 5 ∨ k = 7) (hg : g < 3) (hj : j < 6) :
    refSlotAt (32 * k + (256 * set + 8 * g + j)) = 9 * set + 3 * g + j % 3 := by
  have hset : (32 * k + (256 * set + 8 * g + j)) / 0x100 = set := by omega
  have hinset : (32 * k + (256 * set + 8 * g + j)) % 0x100 = 32 * k + 8 * g + j := by omega
  have hgroup : (32 * k + (256 * set + 8 * g + j)) % 32 = 8 * g + j := by omega
  have hrest : (32 * k + (256 * set + 8 * g + j)) % 8 = j := by omega
  rw [refSlotAt, hset, hinset, hgroup, hrest, if_neg (by omega)]
  omega

theorem refSlotAt_channel_offset {k set n : Nat} (hk : k = 10 ∨ k = 11 ∨ k = 12) (hn : n < 9) :
    refSlotAt (16 * k + (256 * set + n)) = 9 * set + n := by
  have hset : (16 * k + (256 * set + n)) / 0x100 = set := by omega
  have hinset : (16 * k + (256 * set + n)) % 0x100 = 16 * k + n := by omega
  have hrest : (16 * k + (256 * set + n)) % 16 = n := by omega
  rw [refSlotAt, hset, hinset, hrest, if_pos (by omega)]

theorem refSlotAt_operator {ls : Nat} (hls : ls < 18) (op : Fin 2) {b x : BitVec 9}
    (hb : b ∈ ([0x20, 0x40, 0x60, 0x80, 0xE0] : List (BitVec 9)))
    (hx : (if op = 0 then (refOpmapStd.getD ls ⟨none, none⟩).mod else (refOpmapStd.getD ls ⟨none, none⟩).car) =
      some x) : b.toNat + x.toNat < 512 ∧ refSlotAt (b.toNat + x.toNat) = ls := by
  obtain ⟨⟨k, hbank⟩, hk⟩ : 32 ∣ b.toNat ∧ (b.toNat < 0xA0 ∨ b.toNat = 0xE0) := by
    clear hx
    revert b
    decide
  obtain ⟨set, g, j, hset, hg, hj, rfl⟩ : ∃ set g j, set < 2 ∧ g < 3 ∧ j < 3 ∧ ls = 9 * set + 3 * g + j :=
    ⟨ls / 9, ls % 9 / 3, ls % 3, by omega, by omega, by omega, by omega⟩
  have hmod := refModOffset_toNat hset hg hj
  obtain ⟨j', hj', hrest, hoffset⟩ : ∃ j' < 6, j' % 3 = j ∧ x.toNat = 256 * set + 8 * g + j' := by
    rw [refOpmapStd_getD _ hls] at hx
    split at hx <;> obtain rfl := Option.some_inj.1 hx
    · exact ⟨j, by omega, by omega, hmod⟩
    · refine ⟨j + 3, by omega, by omega, ?_⟩
      rw [BitVec.toNat_add, hmod]
      exact Nat.mod_eq_of_lt (by omega : 256 * set + 8 * g + j + 3 < 2 ^ 9)
  rw [hbank, hoffset, refSlotAt_operator_offset (by omega) hg hj']
  omega

theorem refSlotAt_channel {ls : Nat} (hls : ls < 18) {b : BitVec 9} (hb : b ∈ ([0xA0, 0xB0, 0xC0] : List (BitVec 9))) :
    b.toNat + (BitVec.ofNat 9 (256 * (ls / 9) + ls % 9)).toNat < 512 ∧
    refSlotAt (b.toNat + (BitVec.ofNat 9 (256 * (ls / 9) + ls % 9)).toNat) = ls := by
  obtain ⟨⟨k, hbank⟩, hlo, hhi⟩ : 16 ∣ b.toNat ∧ 0xA0 ≤ b.toNat ∧ b.toNat ≤ 0xC0 := by
    revert b
    decide
  rw [BitVec.toNat_ofNat, Nat.mod_eq_of_lt (by omega), hbank, refSlotAt_channel_offset (by omega) (by omega)]
  omega

/-- A register of a melodic `REF` slot stands where `refSlotAt` finds the slot. -/
theorem State.Register.refSlotAt_eq {capChiptype capFullpan : Bool} (href : s.hw = refParams capChiptype capFullpan)
    (hv : v % 23 < 18) {b x : BitVec 9} (h : s.Register v b (some x)) :
    b.toNat + x.toNat < 512 ∧ refSlotAt (b.toNat + x.toNat) = v % 23 := by
  have hlocal : s.localSlot v = v % 23 := by rw [State.localSlot, href]; rfl
  generalize ho : some x = o at h
  cases h with
  | operator op hb =>
    rw [State.mapOp_own, (State.RowsAgree.of_ref href hv).opRow_eq, hlocal] at ho
    have hx := eq_some_of_singlePort ho.symm
    rw [href] at hx hb
    exact refSlotAt_operator hv op hb hx
  | pitch hb =>
    rw [State.mapPitch, hlocal] at ho
    have hx := eq_some_of_singlePort ho.symm
    rw [href] at hx hb
    obtain rfl := Option.some_inj.1 ((refChmap_offset _ hv).1.symm.trans hx)
    exact refSlotAt_channel hv (List.mem_append_left [0xC0] hb)
  | pan =>
    rw [State.mapPan, hlocal] at ho
    have hx := eq_some_of_singlePort ho.symm
    rw [href] at hx ⊢
    obtain rfl := Option.some_inj.1 ((refChmap_offset _ hv).2.symm.trans hx)
    exact refSlotAt_channel hv (List.mem_append_right [0xA0, 0xB0] (List.mem_singleton_self _))

/-- The item's address is on voice `v`'s chip, at an offset of the voice's slot. -/
def OutItem.AtVoice (v : Nat) (x : OutItem) : Prop :=
  x.addr.toNat / 512 = v / 23 ∧ refSlotAt (x.addr.toNat % 512) = v % 23

theorem OutItem.AtVoice.of_outAddr {x : OutItem} {off : Nat} (hx : x.addr = outAddr (v / 23) off) (hv : v < 8 * 23)
    (hoff : off < 512) (hslot : refSlotAt off = v % 23) : x.AtVoice v := by
  have haddr := outAddr_toNat (chip := v / 23) (by omega) hoff
  rw [OutItem.AtVoice, hx, haddr, show (v / 23 * 512 + off) % 512 = off by omega]
  exact ⟨by omega, hslot⟩

/-- No address belongs to two voices. -/
theorem OutItem.AtVoice.addr_ne {w : Nat} {x y : OutItem} (hx : x.AtVoice v) (hy : y.AtVoice w) (hne : v ≠ w) :
    x.addr ≠ y.addr := by
  intro h
  obtain ⟨hchipx, hslotx⟩ := hx
  obtain ⟨hchipy, hsloty⟩ := hy
  rw [h] at hchipx hslotx
  omega

theorem VoiceItemsHave.atVoice {capChiptype capFullpan : Bool} (href : s.hw = refParams capChiptype capFullpan)
    (hlive : v < 8 * 23) (hv : v % 23 < 18) : VoiceItemsHave (OutItem.AtVoice v) s v := by
  have hspc : s.hw.spc = 23 := by rw [href]; rfl
  refine ⟨fun {b o d} hr x hx => ?_, fun _ o ho k => ?_⟩
  · cases o with
    | none => simp [State.regItem] at hx
    | some y =>
      obtain ⟨hlt, hslot⟩ := hr.refSlotAt_eq href hv
      rw [List.mem_singleton.1 hx]
      exact .of_outAddr (by rw [hspc]) hlive hlt hslot
  · have hr : s.Register v _ _ := .pan
    obtain ⟨hlt, hslot⟩ := (ho ▸ hr).refSlotAt_eq href hv
    exact .of_outAddr (by rw [hspc]) hlive hlt hslot

theorem VoiceItemsHave.timbrePhase {P : OutItem → Prop} (h : VoiceItemsHave P s v) :
    ∀ x ∈ s.timbrePhase v, P x := by
  have hop := fun (op : Fin 2) {b : BitVec 9} (hb) {d : Byte} => h.reg (d := d) (.operator (b := b) op hb)
  intro x hx
  simp only [State.timbrePhase, List.mem_append] at hx
  rcases hx with (((((((hx | hx) | hx) | hx) | hx) | hx) | hx) | hx) | hx
  iterate 4 exact hop 0 (by simp) x hx
  iterate 4 exact hop 1 (by simp) x hx
  · exact h.reg .pan x hx

theorem VoiceItemsHave.voiceItems {P : OutItem → Prop} (h : VoiceItemsHave P s v) : ∀ x ∈ s.voiceItems v, P x := by
  intro x hx
  simp only [State.voiceItems, List.mem_append] at hx
  rcases hx with (((hx | hx) | hx) | hx) | hx
  · exact h.timbrePhase x hx
  · exact h.volumePhase x hx
  · exact h.pitchPhase x hx
  · exact h.panPhase x hx
  · exact h.keyOffItem x hx

/-- In a consistent `REF` state the items of a live unreserved voice have addresses of that voice. -/
theorem Consistent.atVoice {capChiptype capFullpan : Bool} (h : Consistent s)
    (href : s.hw = refParams capChiptype capFullpan) (hv : v < s.cfg.nchips.toNat * 23)
    (hres : (s.voice v).reserved = false) : ∀ x ∈ s.voiceItems v, x.AtVoice v := by
  have hchips := s.cfg.nchips.isLt
  exact (VoiceItemsHave.atVoice href (by omega) (h.mod_23_lt_18 href hv hres)).voiceItems

/-! ### The first and the last register of a note start (R271) -/

theorem head?_timbrePhase {x : BitVec 9} (h : s.mapOp v 0 = some x) :
    (s.timbrePhase v).head?.map OutItem.addr =
      some (outAddr (v / s.hw.spc) (s.hw.banks.char.toNat + x.toNat)) := by
  simp [State.timbrePhase, h, State.regItem]

theorem getLast?_pitchPhase {x : BitVec 9} (h : s.mapPitch v = some x) :
    (s.pitchPhase v).getLast?.map OutItem.addr =
      some (outAddr (v / s.hw.spc) (s.hw.banks.freqHi.toNat + x.toNat)) := by
  simp [State.pitchPhase, h, State.regItem]

/-- With two register sets the maps' entries all count. -/
theorem singlePort_of_capChiptype {p : Params} (hp : p.capChiptype = true) (o : Option (BitVec 9)) :
    singlePort p o = o := by
  cases o <;> simp [singlePort, hp]

/-- The addresses of the first timbre write and of the key-on write of a melodic slot, as the tables give them. -/
theorem noteStart_addr_ref {capFullpan : Bool} (href : s.hw = refParams true capFullpan) (hv : v % 23 < 18) :
    (s.timbrePhase v).head?.map OutItem.addr =
      (refOpmapStd.getD (v % 23) ⟨none, none⟩).mod.map (fun x => outAddr (v / 23) (0x20 + x.toNat)) ∧
    (s.pitchPhase v).getLast?.map OutItem.addr =
      (refChmapPitch.getD (v % 23) none).map (fun x => outAddr (v / 23) (0xB0 + x.toNat)) := by
  have hlocal : s.localSlot v = v % 23 := by rw [State.localSlot, href]; rfl
  have hcap : s.hw.capChiptype = true := by rw [href]; rfl
  have hop : s.mapOp v 0 = (refOpmapStd.getD (v % 23) ⟨none, none⟩).mod := by
    have hown := s.mapOp_own v 0
    rwa [(State.RowsAgree.of_ref href hv).opRow_eq, hlocal, singlePort_of_capChiptype hcap, href] at hown
  have hpitch : s.mapPitch v = refChmapPitch.getD (v % 23) none := by
    rw [State.mapPitch, hlocal, singlePort_of_capChiptype hcap, href]
    rfl
  have hx : (refOpmapStd.getD (v % 23) ⟨none, none⟩).mod = _ := congrArg OpRow.mod (refOpmapStd_getD _ hv)
  have hy := (refChmap_offset _ hv).1
  rw [head?_timbrePhase (hop.trans hx), getLast?_pitchPhase (hpitch.trans hy), hx, hy, href]
  exact ⟨rfl, rfl⟩

/-- Settles O59: the tables are the spec's; the ten slots are melodic; and an address names its chip and its slot, so
that two voices have none in common. -/
theorem refRegisterAddresses : Obligations.RefRegisterAddresses := by
  refine ⟨fun chiptype fullpan => ⟨rfl, rfl, rfl, rfl, rfl, rfl⟩, fun s fullpan v item1 item13 href hmem => ?_,
    fun s chiptype fullpan v w x y href hs hne hv hw hvres hwres hx hy => ?_⟩
  · simp only [List.mem_cons, Prod.mk.injEq, List.not_mem_nil, or_false] at hmem
    have hmelodic : v % 23 < 18 := by omega
    obtain ⟨hfirst, hlast⟩ := noteStart_addr_ref href hmelodic
    have hfirst := congrArg (Option.map BitVec.toNat) hfirst
    have hlast := congrArg (Option.map BitVec.toNat) hlast
    rw [Option.map_map] at hfirst hlast
    refine ⟨hfirst.trans ?_, hlast.trans ?_⟩ <;>
    rcases hmem with ⟨rfl, rfl, rfl⟩ | ⟨rfl, rfl, rfl⟩ | ⟨rfl, rfl, rfl⟩ | ⟨rfl, rfl, rfl⟩ | ⟨rfl, rfl, rfl⟩ |
      ⟨rfl, rfl, rfl⟩ | ⟨rfl, rfl, rfl⟩ | ⟨rfl, rfl, rfl⟩ | ⟨rfl, rfl, rfl⟩ | ⟨rfl, rfl, rfl⟩ <;> rfl
  · exact (hs.atVoice href hv hvres x hx).addr_ne (hs.atVoice href hw hwres y hy) hne

end Sys2Proof.Machine
end

section
/-! The category that Recategorise gives every slot of a `REF` chip. -/

namespace Sys2Proof.Machine

open Sys2Proof

/-- A run of writes to one place, of which the one at `k` alone may hit. -/
theorem foldl_only_write {α : Type} {write : Nat → Option α} {k : Nat} (l : List Nat)
    (honly : ∀ j ∈ l, j ≠ k → write j = none) (a : α) :
    l.foldl (fun a j => (write j).getD a) a = if k ∈ l then (write k).getD a else a := by
  induction l generalizing a with
  | nil => rfl
  | cons j l ih =>
    rw [List.foldl_cons, ih fun i hi => honly i (List.mem_cons_of_mem _ hi)]
    by_cases hj : j = k
    · subst hj
      cases hw : write j <;> simp
    · rw [honly j (List.mem_cons_self ..) hj, Option.getD_none]
      simp [Ne.symm hj]

/-! ### Step 1: the rhythm mode's channels (44_register_mapper.md R242, R245) -/

/-- What the rhythm mode's writes on a chip set its local slot `ls` to. -/
def refRhythmWrite (rhythm : Bool) (ls : Nat) : Option Category :=
  ((rhythmWrites rhythm).find? fun w => w.1 == ls).map Prod.snd

/-- A chip's writes hit no slot of another chip. -/
theorem find?_rhythmWrites (rhythm : Bool) {chip ls : Nat} (hls : ls < 23) (k : Nat) :
    ((rhythmWrites rhythm).find? fun w => k * 23 + w.1 == chip * 23 + ls).map Prod.snd =
      if k = chip then refRhythmWrite rhythm ls else none := by
  split
  next hk =>
    have hslot : (fun w : Nat × Category => k * 23 + w.1 == chip * 23 + ls) = fun w => w.1 == ls := by
      funext w
      simp [hk]
    rw [hslot, refRhythmWrite]
  next hk =>
    have hmiss : (rhythmWrites rhythm).find? (fun w => k * 23 + w.1 == chip * 23 + ls) = none :=
      List.find?_eq_none.2 fun w hw => by
        have := lt_of_mem_rhythmWrites hw
        simp only [beq_iff_eq]
        omega
    rw [hmiss, Option.map_none]

section Slot

variable {capChiptype capFullpan : Bool} {c : Cfg} {chip ls : Nat}

theorem rhythmCategory_ref (hls : ls < 23) :
    rhythmCategory (refParams capChiptype capFullpan) c (chip * 23 + ls) =
      if chip < c.nchips.toNat then (refRhythmWrite c.rhythm ls).getD .regular else .regular := by
  have hrun := foldl_only_write (write := fun k => if k = chip then refRhythmWrite c.rhythm ls else none)
    (k := chip) (List.range c.nchips.toNat) (fun _ _ hk => if_neg hk) Category.regular
  simp only [List.mem_range, if_true] at hrun
  rw [rhythmCategory, ← hrun]
  congr 1
  funext cat k
  rw [← find?_rhythmWrites c.rhythm hls k]
  simp only [refParams]
  split <;> simp [*]

/-! ### Step 2: the pairs (R242, R244) -/

/-- The pair of its chip that local slot `ls` can belong to. -/
def refPairOf (ls : Nat) : Nat := if ls ≤ 5 then ls % 3 else 3 + ls % 3

theorem refPairOf_lt (ls : Nat) : refPairOf ls < 6 := by
  unfold refPairOf
  split <;> omega

/-- What the pair of local slot `ls` sets it to, when it is enabled. -/
def refPairWrite (ls : Nat) : Option Category :=
  if 3 ≤ ls ∧ ls ≤ 5 ∨ 12 ≤ ls ∧ ls ≤ 14 then some .fourOpSecond
  else if ls ≤ 2 ∨ 9 ≤ ls ∧ ls ≤ 11 then some .fourOpFirst
  else none

/-- What local slot `ls` of a live chip is, its pair enabled or not. -/
def refCategory (rhythm paired : Bool) (ls : Nat) : Category :=
  if paired then (refPairWrite ls).getD ((refRhythmWrite rhythm ls).getD .regular)
  else (refRhythmWrite rhythm ls).getD .regular

/-- The two slots of pair `j` are the pair's own. -/
theorem pairWrite_eq : ∀ j < 6, ∀ ls < 23,
    (if ls = refPairSlot j + 3 then some Category.fourOpSecond
      else if ls = refPairSlot j then some Category.fourOpFirst else none) =
    if j = refPairOf ls then refPairWrite ls else none := by
  decide

/-- What pair `k` sets a slot of chip `chip` to. -/
theorem pairWrite_at {k : Nat} (hls : ls < 23) :
    (if chip * 23 + ls = k / 6 * 23 + refPairSlot (k % 6) + 3 then some Category.fourOpSecond
      else if chip * 23 + ls = k / 6 * 23 + refPairSlot (k % 6) then some Category.fourOpFirst else none) =
    if k = 6 * chip + refPairOf ls then refPairWrite ls else none := by
  have hj : k % 6 < 6 := Nat.mod_lt _ (by decide)
  have hslot := refPairSlot_le _ hj
  have hpair := refPairOf_lt ls
  by_cases hchip : k / 6 = chip
  · rw [if_congr (show _ ↔ ls = refPairSlot (k % 6) + 3 by omega) rfl
      (if_congr (show _ ↔ ls = refPairSlot (k % 6) by omega) rfl rfl), pairWrite_eq _ hj ls hls]
    exact if_congr (by omega) rfl rfl
  · rw [if_neg (by omega), if_neg (by omega), if_neg (by omega)]

theorem categoryAt_ref (hn : c.n4op.toNat ≤ 36) (hls : ls < 23) :
    categoryAt (refParams capChiptype capFullpan) c (chip * 23 + ls) =
      if 6 * chip + refPairOf ls < c.n4op.toNat then
        (refPairWrite ls).getD (rhythmCategory (refParams capChiptype capFullpan) c (chip * 23 + ls))
      else rhythmCategory (refParams capChiptype capFullpan) c (chip * 23 + ls) := by
  have hrun := foldl_only_write (write := fun k => if k = 6 * chip + refPairOf ls then refPairWrite ls else none)
    (k := 6 * chip + refPairOf ls) (List.range c.n4op.toNat) (fun _ _ hk => if_neg hk)
    (rhythmCategory (refParams capChiptype capFullpan) c (chip * 23 + ls))
  simp only [List.mem_range, if_true] at hrun
  rw [categoryAt, ← hrun]
  refine List.foldl_ext _ _ _ fun cat k hk => ?_
  have hk : k < 36 := Nat.lt_of_lt_of_le (List.mem_range.1 hk) hn
  rw [← pairWrite_at hls, apply_ite (Option.getD · cat), apply_ite (Option.getD · cat)]
  simp only [refParams, refFouropFirst_getElem? hk]
  rfl

/-- The categories of `REF`, by the chip and the local slot. -/
theorem categoryAt_ref_eq (hchips : c.nchips.toNat ≤ 6) (hn : c.n4op.toNat ≤ 6 * c.nchips.toNat) (hls : ls < 23) :
    categoryAt (refParams capChiptype capFullpan) c (chip * 23 + ls) =
      if c.nchips.toNat ≤ chip then .regular
      else refCategory c.rhythm (decide (6 * chip + refPairOf ls < c.n4op.toNat)) ls := by
  have hpair := refPairOf_lt ls
  rw [categoryAt_ref (by omega) hls, rhythmCategory_ref hls, refCategory]
  by_cases hlive : c.nchips.toNat ≤ chip
  · rw [if_pos hlive, if_neg (by omega), if_neg (by omega)]
  · simp only [if_neg hlive, if_pos (Nat.lt_of_not_le hlive), decide_eq_true_eq]

end Slot

/-- The categories of a live chip's slots as the spec's table gives them. -/
theorem refCategory_eq : ∀ (rhythm paired : Bool), ∀ ls < 23, refCategory rhythm paired ls =
    if (ls ≤ 2 ∨ 9 ≤ ls ∧ ls ≤ 11) ∧ paired = true then .fourOpFirst
    else if (3 ≤ ls ∧ ls ≤ 5 ∨ 12 ≤ ls ∧ ls ≤ 14) ∧ paired = true then .fourOpSecond
    else if 6 ≤ ls ∧ ls ≤ 8 ∧ rhythm = true ∨ 18 ≤ ls ∧ rhythm = false then .rhythmSlave
    else if ls = 18 then .rhythmBD else if ls = 19 then .rhythmSD else if ls = 20 then .rhythmTT
    else if ls = 21 then .rhythmCY else if ls = 22 then .rhythmHH else .regular := by
  decide

/-- The pair number of a slot, as the statement counts it. -/
theorem paired_iff {chip n ls : Nat} :
    ((ls ≤ 2 ∨ 9 ≤ ls ∧ ls ≤ 11) ∧ 6 * chip + refPairOf ls < n ↔
      ls ≤ 2 ∧ 6 * chip + ls < n ∨ 9 ≤ ls ∧ ls ≤ 11 ∧ 6 * chip + (ls - 6) < n) ∧
    ((3 ≤ ls ∧ ls ≤ 5 ∨ 12 ≤ ls ∧ ls ≤ 14) ∧ 6 * chip + refPairOf ls < n ↔
      3 ≤ ls ∧ ls ≤ 5 ∧ 6 * chip + (ls - 3) < n ∨ 12 ≤ ls ∧ ls ≤ 14 ∧ 6 * chip + (ls - 9) < n) := by
  unfold refPairOf
  split <;> omega

/-- Settles O40: a slot's category is a function of its local number, of whether its pair is enabled and of the rhythm
mode; the reservation is R242's step 3. -/
theorem refCategories : Obligations.RefCategories := by
  intro chiptype fullpan c chip ls hchips hn hchip hls p paired
  obtain ⟨hfirst, hsecond⟩ := paired_iff (chip := chip) (n := c.n4op.toNat) (ls := ls)
  rw [Nat.mul_comm 23 chip]
  refine ⟨?_, ?_⟩
  · rw [categoryAt_ref_eq hchips hn hls, refCategory_eq _ _ ls hls]
    simp only [decide_eq_true_eq, hfirst, hsecond]
    rfl
  · have hlive : decide (c.nv p ≤ chip * 23 + ls) = decide (c.nchips.toNat ≤ chip) := by
      simp only [p, Cfg.nv, refParams, decide_eq_decide]
      omega
    have hlocal : (chip * 23 + ls) % p.spc = ls := by
      simp only [p, refParams]
      omega
    rw [reservedAt, hlive, hlocal]
    simp only [Bool.or_eq_true, Bool.and_eq_true, decide_eq_true_eq, Bool.not_eq_true', or_assoc, and_assoc]
    rfl

end Sys2Proof.Machine
end

section
/-! The entries of the voice table that a command leaves alone. -/

namespace Sys2Proof.Machine

open Sys2Proof

variable {s t : State} {v w : Nat}

/-! ### The write procedures of one voice leave every other voice's entry alone -/

theorem State.applyTimbre_voice_of_ne (h : v ≠ w) (s : State) (r : BitVec 9) :
    (s.applyTimbre w r).voice v = s.voice v := by
  unfold State.applyTimbre
  split
  · rfl
  · simp [State.applyOperator_eq, State.writeVoiceReg_eq, h]

theorem State.applyVolume_voice (s : State) (v w : Nat) : (s.applyVolume w).voice v = s.voice v := by
  rw [State.applyVolume_eq, State.emitAll_voice]

theorem State.applyPitch_voice_of_ne (h : v ≠ w) (s : State) : (s.applyPitch w true).voice v = s.voice v := by
  rw [State.applyPitch_eq, State.emitAll_voice, State.voice_setVoice_of_ne _ _ h]

theorem State.applyPan_voice (s : State) (v w : Nat) : (s.applyPan w).voice v = s.voice v := by
  rw [State.applyPan_eq, State.emitAll_voice]

theorem State.startNote_voice_of_ne (h : v ≠ w) (s : State) (r : BitVec 9) :
    (s.startNote w r).voice v = s.voice v := by
  rw [State.startNote, State.applyPan_voice, State.applyPitch_voice_of_ne h, State.applyVolume_voice,
    State.applyTimbre_voice_of_ne h]

theorem State.bindVoice_voice_of_ne (h : v ≠ w) (s : State) (ch : BitVec 4) (key vel : BitVec 7) :
    (s.bindVoice w ch key vel).voice v = s.voice v := by
  rw [State.bindVoice, State.setActive_voice, State.voice_setVoice_of_ne _ _ h]

theorem State.releaseVoice_voice_of_ne (h : v ≠ w) (s : State) : (s.releaseVoice w).voice v = s.voice v := by
  simp [State.releaseVoice, State.keyOffWrite_eq, h]

theorem State.forActive_voice_of_not_mem {f : State → Nat → State}
    (hf : ∀ w, v ≠ w → ∀ s, (f s w).voice v = s.voice v) {c : BitVec 4} (hv : v ∉ s.activeOf c) :
    (s.forActive c f).voice v = s.voice v :=
  List.foldlRecOn (motive := fun t => t.voice v = s.voice v) (s.activeOf c) f rfl fun t ht w hw =>
    (hf w (fun e => hv (e ▸ hw)) t).trans ht

/-! ### Reserved voices (44_register_mapper.md R273) -/

/-- No list of a consistent state holds a reserved voice. -/
theorem Consistent.ne_of_mem_pool (h : Consistent s) (hv : (s.voice v).reserved = true) (hw : w ∈ s.pool) : v ≠ w := by
  rintro rfl
  rw [(h.mem_pool_iff.1 hw).2] at hv
  exact absurd hv (by decide)

theorem Consistent.not_mem_activeOf (h : Consistent s) (hv : (s.voice v).reserved = true) (c : BitVec 4) :
    v ∉ s.activeOf c := fun hm => h.ne_of_mem_pool hv (State.mem_pool.2 (.inr ⟨c, hm⟩)) rfl

theorem Consistent.noteOff_voice (h : Consistent s) (hv : (s.voice v).reserved = true) (ch : BitVec 4)
    (key : BitVec 7) : (s.noteOff ch key).voice v = s.voice v := by
  cases hf : s.findNote ch key with
  | none => rw [s.noteOff_of_none hf]
  | some w =>
    have hw := State.mem_pool.2 (.inr ⟨ch, List.mem_of_find?_eq_some hf⟩)
    rw [s.noteOff_of_some hf, State.releaseVoice_voice_of_ne (h.ne_of_mem_pool hv hw)]

theorem State.allocate_voice (s : State) (v : Nat) : s.allocate.2.voice v = s.voice v := by
  unfold State.allocate
  split <;> rfl

theorem Consistent.allocateOrSteal_voice (h : Consistent s) (hv : (s.voice v).reserved = true) :
    s.allocateOrSteal.2.voice v = s.voice v := by
  unfold State.allocateOrSteal
  split
  · exact s.allocate_voice v
  · split
    · rfl
    · rw [State.allocate_voice, h.noteOff_voice hv]

/-- A note starts on a voice that `FREE` holds, after a steal too. -/
theorem Consistent.noteOn_voice (h : Consistent s) (hv : (s.voice v).reserved = true) (ch : BitVec 4)
    (key vel : BitVec 7) : (s.noteOn ch key vel).voice v = s.voice v := by
  have hsteal := h.allocateOrSteal_voice hv
  unfold State.noteOn
  split
  · rfl
  · split
    · exact h.noteOff_voice hv ch key
    · rcases h.allocateOrSteal with e | ⟨u, w, rest, hu, -, hf, e⟩
      · rw [e]
      · rw [e] at hsteal ⊢
        have hu_voice : u.voice v = s.voice v := hsteal
        have hres : (u.voice v).reserved = true := (congrArg Voice.reserved hu_voice).trans hv
        have hfree : w ∈ u.free := by rw [hf]; exact List.mem_cons_self ..
        have hne : v ≠ w := hu.ne_of_mem_pool hres (State.mem_pool.2 (.inl hfree))
        dsimp only
        rw [State.startNote_voice_of_ne hne, State.bindVoice_voice_of_ne hne, State.setFree_voice, hu_voice]

theorem Consistent.control_voice (h : Consistent s) (hv : (s.voice v).reserved = true) (ch : BitVec 4)
    (ctl : Controller) (val : BitVec 7) :
    (s.control ch ctl val).voice v = s.voice v ∨ PoolReset (s.control ch ctl val) := by
  have hact := h.not_mem_activeOf hv ch
  have hloop : ∀ (k : Chan) {f : State → Nat → State}, (∀ w, v ≠ w → ∀ s, (f s w).voice v = s.voice v) →
      ((s.setChan ch k).forActive ch f).voice v = s.voice v := fun k _ hf =>
    State.forActive_voice_of_not_mem (s := s.setChan ch k) hf hact
  have hpitch : ∀ k, ((s.setChan ch k).forActive ch fun s w => s.applyPitch w true).voice v = s.voice v := fun k =>
    hloop k fun _ => State.applyPitch_voice_of_ne
  cases ctl with
  | volume | expression | brightness => exact .inl (hloop _ fun w _ s => s.applyVolume_voice v w)
  | pan => exact .inl (hloop _ fun w _ s => s.applyPan_voice v w)
  | detune => exact .inl (hpitch _)
  | allNotesOff => exact .inl (State.forActive_voice_of_not_mem (fun _ => State.releaseVoice_voice_of_ne) hact)
  | resetAll => exact .inr (.stateReset _)
  | rpnMsb | rpnLsb => exact .inl rfl
  | dataEntryMsb | dataEntryLsb =>
    unfold State.control
    dsimp only
    split
    · exact .inl (hpitch _)
    · exact .inl rfl

theorem PoolReset.fullReset (s : State) : PoolReset s.fullReset := by
  rw [State.fullReset_eq]
  exact .stateReset _

/-- Settles O53, command by command: an event writes voices of `FREE` and of the active lists, where no reserved voice
is, and the resets reset the pool. -/
theorem eventsLeaveReservedVoices : Obligations.EventsLeaveReservedVoices := by
  intro i s t v hs h hv _ _
  cases i with
  | nop | reserved3 | reserved4 | reserved5 | reserved6 | reserved7 | reservedA | reservedD => cases h; exact .inl rfl
  | cfg idx val z =>
    cases h
    rcases s.configure_cases idx val (encode (.cfg idx val z)) with ⟨e, c, m, ht⟩ | ht <;> rw [ht]
    · exact .inl rfl
    · exact .inr (.fullReset _)
  | tbwr addr data z =>
    cases h
    rw [State.timbreWrite_eq]
    exact .inl rfl
  | noteoff ch key vel z =>
    cases h
    exact .inl (gated_keeps (Q := fun t => t.voice v = s.voice v) rfl (hs.noteOff_voice hv ch _))
  | noteon ch key vel z =>
    cases h
    exact .inl (gated_keeps (Q := fun t => t.voice v = s.voice v) rfl (hs.noteOn_voice hv ch _ _))
  | ctrl ch ctl val z =>
    cases h
    refine gated_keeps (Q := fun t => t.voice v = s.voice v ∨ PoolReset t) (.inl rfl) ?_
    unfold State.controlChange
    split
    · exact hs.control_voice hv ch _ _
    · exact .inl rfl
  | prog ch prog z => cases h; exact .inl (gated_keeps (Q := fun t => t.voice v = s.voice v) rfl rfl)
  | bend ch lsb msb z =>
    cases h
    refine .inl (gated_keeps (Q := fun t => t.voice v = s.voice v) rfl ?_)
    exact State.forActive_voice_of_not_mem (fun _ => State.applyPitch_voice_of_ne) (hs.not_mem_activeOf hv ch)
  | reset z => cases h; exact .inr (.fullReset s)

end Sys2Proof.Machine
end

section
/-! The system commands: a command word taken, a byte of timbre RAM, a full reset, and the register a valid CFG
writes. -/

namespace Sys2Proof.Machine

open Sys2Proof

/-! ### Steps -/

/-- A word of 32 bits is offered as it is. -/
theorem State.withFetchWord_toNat (s : State) (w : Word) : s.withFetchWord 32 w.toNat = s.offerFirst w := by
  rw [State.withFetchWord, Nat.mod_eq_of_lt w.isLt, BitVec.ofNat_toNat, BitVec.setWidth_eq]

/-- Settles O5: the first item of the queue decides which law of a step applies. -/
theorem stepRunsDecodedCommand : Obligations.StepRunsDecodedCommand := by
  refine ⟨fun s w rest i hin hi => ?_, fun s rest => step_of_rstPulse s, fun s => step_of_nil s, fun s i => ?_⟩
  · rw [step_of_command s hin, hi]
  · rw [State.withFetchWord_toNat]
    exact step_of_command (s.offerFirst (encode i)) rfl

/-! ### TBWR (45_backend_and_system_commands.md R296) -/

theorem State.ramByte_ramWrite (s : State) (b : Nat) (x : Byte) (a : Nat) :
    (s.ramWrite b x).ramByte a = if a = b then x else s.ramByte a := by
  unfold State.ramByte State.ramWrite
  split
  next h => rw [h, Memory.read_write_self_none, Option.getD_some]
  next h => rw [Memory.read_write_of_ne x h]

theorem State.timbreWrite_of_le (s : State) {addr : BitVec 12} (h : Config.TBYTES ≤ addr.toNat) (data : Byte) :
    s.timbreWrite addr data = s :=
  if_neg (Nat.not_lt.2 h)

theorem State.timbreWrite_of_lt (s : State) {addr : BitVec 12} (h : addr.toNat < Config.TBYTES) (data : Byte) :
    s.timbreWrite addr data = s.ramWrite addr.toNat data :=
  if_pos h

theorem State.ramByte_timbreWrite (s : State) (addr : BitVec 12) (data : Byte) (a : Nat) :
    (s.timbreWrite addr data).ramByte a = if a = addr.toNat ∧ a < Config.TBYTES then data else s.ramByte a := by
  by_cases h : addr.toNat < Config.TBYTES
  · rw [s.timbreWrite_of_lt h, State.ramByte_ramWrite]
    exact if_congr ⟨fun ha => ⟨ha, ha ▸ h⟩, And.left⟩ rfl rfl
  · rw [s.timbreWrite_of_le (Nat.not_lt.1 h), if_neg fun ⟨ha, hlt⟩ => h (ha ▸ hlt)]

/-- Settles O9: within the RAM it is one write, past the end it is none. -/
theorem tbwrWritesOneByte : Obligations.TbwrWritesOneByte := fun s addr data z =>
  ⟨_, exec_tbwr s addr data z, s.timbreWrite_eq addr data, fun h => s.timbreWrite_of_le h data,
    s.ramByte_timbreWrite addr data⟩

/-! ### A full reset (70_reset_and_hazards.md R351, R352) -/

theorem FullResetEffect.fullReset (s : State) : FullResetEffect s s.fullReset where
  hw     := by rw [State.fullReset_eq]; rfl
  cfg    := s.fullReset_cfg
  ram    := by rw [State.fullReset_eq]; rfl
  inputs := by rw [State.fullReset_eq]; rfl
  errors := by rw [State.fullReset_eq]; exact ⟨rfl, rfl, rfl⟩
  out    := s.fullReset_out
  -- The first item of a full reset is `RST`, after which the old `SHADOW` does not matter.
  shadow := s.fullReset_shadow
  pool   := .fullReset s

/-- Settles O13: RESET is a full reset, with no gate before it. -/
theorem resetPerformsFullReset : Obligations.ResetPerformsFullReset := fun s z =>
  ⟨_, exec_reset s z, .fullReset s⟩

/-! ### What CFG writes (45_backend_and_system_commands.md R292) -/

/-- Every register after a CFG: the one with the index holds the value's low bits, the others what they held. -/
theorem Cfg.write_eq (c : Cfg) (idx : BitVec 4) (val : BitVec 8) : c.write idx val =
    { stereo    := if idx.toNat = 0 then val.getLsbD 0 else c.stereo
      additive  := if idx.toNat = 1 then val.getLsbD 0 else c.additive
      maxchan   := if idx.toNat = 2 then val.setWidth 4 else c.maxchan
      freqsel   := if idx.toNat = 3 then val else c.freqsel
      volsel    := if idx.toNat = 4 then val else c.volsel
      nchips    := if idx.toNat = 5 then val.setWidth 3 else c.nchips
      n4op      := if idx.toNat = 6 then val.setWidth 6 else c.n4op
      opmode    := if idx.toNat = 7 then val.getLsbD 0 else c.opmode
      rhythm    := if idx.toNat = 8 then val.getLsbD 0 else c.rhythm
      mastervol := if idx.toNat = 9 then val.setWidth 7 else c.mastervol } := by
  unfold Cfg.write
  split <;> simp_all

/-! ### The value fits its register when no check fails -/

section Fits

variable {p : Params} {c : Cfg} {i n : Nat} {val : BitVec 8}

theorem le_one_of_no_misconfigRow (h : ∀ code, ¬ MisconfigRow p c i n code) (hi : i = 0 ∨ i = 1 ∨ i = 7 ∨ i = 8) :
    n ≤ 1 :=
  Nat.not_lt.1 fun hn => h 2 (.inr (.inl ⟨rfl, .inl ⟨hi, hn⟩⟩))

theorem maxchan_le_of_no_misconfigRow (h : ∀ code, ¬ MisconfigRow p c i n code) (hi : i = 2) : n ≤ 15 :=
  Nat.not_lt.1 fun hn => h 2 (.inr (.inl ⟨rfl, .inr (.inl ⟨hi, hn⟩)⟩))

theorem mastervol_le_of_no_misconfigRow (h : ∀ code, ¬ MisconfigRow p c i n code) (hi : i = 9) : n ≤ 127 :=
  Nat.not_lt.1 fun hn => h 2 (.inr (.inl ⟨rfl, .inr (.inr ⟨hi, hn⟩)⟩))

theorem nchips_le_of_no_misconfigRow (h : ∀ code, ¬ MisconfigRow p c i n code) (hi : i = 5) : n ≤ 6 :=
  Nat.not_lt.1 fun hn => h 3 (.inr (.inr (.inl ⟨rfl, hi, .inr hn⟩)))

/-- Without the capability no pair may be enabled, so the count holds on both straps. -/
theorem n4op_le_of_no_misconfigRow (h : ∀ code, ¬ MisconfigRow p c i n code) (hi : i = 6) :
    n ≤ 6 * c.nchips.toNat := by
  refine Nat.not_lt.1 fun hn => ?_
  cases hcap : p.capChiptype with
  | true => exact h 4 (.inr (.inr (.inr (.inl ⟨rfl, .inr ⟨hi, hn, hcap⟩⟩))))
  | false => exact h 5 (.inr (.inr (.inr (.inr (.inl ⟨rfl, hi, Nat.zero_lt_of_lt hn, hcap⟩)))))

theorem getLsbD_zero_of_le_one (h : val.toNat ≤ 1) : val.getLsbD 0 = decide (val = 1) := by
  have hval : val = 0 ∨ val = 1 := by bv_omega
  rcases hval with rfl | rfl <;> rfl

theorem ite_getLsbD_zero {P : Prop} [Decidable P] {r : Bool} (h : P → val.toNat ≤ 1) :
    (if P then val.getLsbD 0 else r) = if P then decide (val = 1) else r :=
  ite_congr rfl (fun hp => getLsbD_zero_of_le_one (h hp)) fun _ => rfl

theorem toNat_ite_setWidth {P : Prop} [Decidable P] {w : Nat} {r : BitVec w} (h : P → val.toNat < 2 ^ w) :
    (if P then val.setWidth w else r).toNat = if P then val.toNat else r.toNat := by
  rw [apply_ite BitVec.toNat]
  exact ite_congr rfl (fun hp => by rw [BitVec.toNat_setWidth, Nat.mod_eq_of_lt (h hp)]) fun _ => rfl

end Fits

theorem cfgCause_eq_none {p : Params} {c : Cfg} {idx : BitVec 4} {val : BitVec 8}
    (h : ∀ code, ¬ MisconfigRow p c idx.toNat val.toNat code) : cfgCause p c idx val = none :=
  Option.eq_none_iff_forall_ne_some.2 fun k hk => h _ ((cfgCause_iff p c idx val _).2 ⟨k, hk, rfl⟩)

/-- A CFG that meets no row of 60_exceptions.md R321 writes its register and resets. -/
theorem exec_cfg_of_valid {s : State} {idx : BitVec 4} {val : BitVec 8}
    (h : ∀ code, ¬ MisconfigRow s.hw s.cfg idx.toNat val.toNat code) (z : BitVec 16) :
    exec (.cfg idx val z) s = .next ({ s with cfg := s.cfg.write idx val } : State).fullReset := by
  rw [exec_cfg, State.configure, cfgCause_eq_none h]

/-- Settles O12: the checks bound the value by its register's width, so the write stores it whole. -/
theorem validCfgWritesRegisterAndResets : Obligations.ValidCfgWritesRegisterAndResets := by
  intro s idx val z h
  have hbit : ∀ k, (k = 0 ∨ k = 1 ∨ k = 7 ∨ k = 8) → idx.toNat = k → val.toNat ≤ 1 :=
    fun k hk hi => le_one_of_no_misconfigRow h (hi ▸ hk)
  refine ⟨_, exec_cfg_of_valid h z, ?_⟩
  rw [State.fullReset_cfg, Cfg.write_eq]
  refine ⟨ite_getLsbD_zero (hbit 0 (by decide)), ite_getLsbD_zero (hbit 1 (by decide)),
    toNat_ite_setWidth fun hi => ?maxchan, apply_ite BitVec.toNat _ _ _, apply_ite BitVec.toNat _ _ _,
    toNat_ite_setWidth fun hi => ?nchips, toNat_ite_setWidth fun hi => ?n4op, ite_getLsbD_zero (hbit 7 (by decide)),
    ite_getLsbD_zero (hbit 8 (by decide)), toNat_ite_setWidth fun hi => ?mastervol, .fullReset _⟩
  case maxchan => exact Nat.lt_succ_of_le (maxchan_le_of_no_misconfigRow h hi)
  case nchips => exact Nat.lt_of_le_of_lt (nchips_le_of_no_misconfigRow h hi) (by decide)
  case n4op =>
    have hn := n4op_le_of_no_misconfigRow h hi
    have hchips := s.cfg.nchips.isLt
    omega
  case mastervol => exact Nat.lt_succ_of_le (mastervol_le_of_no_misconfigRow h hi)

end Sys2Proof.Machine
end

section
/-! The Misconfig trap: its causes, the state it leaves, and what runs while an error stands (60_exceptions.md). -/

namespace Sys2Proof.Machine

open Sys2Proof

variable {s t : State}

/-! ### The causes of the trap (60_exceptions.md R321, R322) -/

/-- Different causes have different codes. -/
theorem Cause.eq_of_toNat_code_eq {j k : Cause} (h : j.code.toNat = k.code.toNat) : j = k := by
  cases j <;> cases k <;> simp [Cause.code] at h ⊢

theorem cfgCause_eq_some_iff {p : Params} {c : Cfg} {idx : BitVec 4} {val : BitVec 8} {k : Cause} :
    cfgCause p c idx val = some k ↔ MisconfigRow p c idx.toNat val.toNat k.code.toNat := by
  rw [cfgCause_iff]
  refine ⟨fun h => ⟨k, h, rfl⟩, fun ⟨j, hj, hcode⟩ => ?_⟩
  rw [hj, Cause.eq_of_toNat_code_eq hcode]

/-- Settles O11: a row that is met is the row of the one cause the check gives. -/
theorem oneCausePerCfg : Obligations.OneCausePerCfg := by
  intro p c idx val
  refine ⟨fun k => cfgCause_eq_some_iff, fun code h => ?_⟩
  obtain ⟨k, hk, rfl⟩ := (cfgCause_iff p c idx val code).1 h
  obtain ⟨hlo, hhi⟩ := k.code_bounds
  refine ⟨hlo, hhi, fun code' h' => ?_⟩
  obtain ⟨k', hk', rfl⟩ := (cfgCause_iff p c idx val code').1 h'
  cases hk.symm.trans hk'
  rfl

/-! ### The trap (60_exceptions.md R324, R327) -/

theorem State.raiseMisconfig_of_ok (he : s.cfgerr = false) (k : Cause) (w : Word) :
    s.raiseMisconfig k w = { s with cfgerr := true, errcode := k.code, errcmd := w } := by
  rw [State.raiseMisconfig, he]
  rfl

/-- Settles O10: the row that is met gives the cause, and the trap latches that cause's code. -/
theorem invalidCfgTakesTrap : Obligations.InvalidCfgTakesTrap := by
  intro s idx val z code h
  obtain ⟨k, hk, rfl⟩ := (cfgCause_iff s.hw s.cfg idx val code).1 h
  rw [exec_cfg, State.configure, hk, BitVec.ofNat_toNat, BitVec.setWidth_eq]
  rfl

/-! ### While an error stands (60_exceptions.md R325, R326) -/

/-- A full reset does not look at the error registers. -/
theorem State.fullReset_clearErrors (s : State) : s.clearErrors.fullReset = s.fullReset := rfl

theorem State.fullReset_cfgerr (s : State) : s.fullReset.cfgerr = false :=
  (FullResetEffect.fullReset s).errors.1

/-- TBWR neither looks at the error registers nor writes them. -/
theorem State.timbreWrite_clearErrors (s : State) (addr : BitVec 12) (data : Byte) :
    s.clearErrors.timbreWrite addr data = (s.timbreWrite addr data).clearErrors := by
  unfold State.timbreWrite
  split <;> rfl

/-- Settles O15: the gate stops the events, and no system command reads the error registers. -/
theorem errorBlocksEvents : Obligations.ErrorBlocksEvents := by
  intro s he
  refine ⟨fun ch a b z z' => ?events, fun z => ?idle, fun addr data z => ?tbwr, fun idx val z h => ?cfg⟩
  case events =>
    simp only [exec_noteoff, exec_noteon, exec_ctrl, exec_prog, exec_bend, gated_of_error s he, and_self]
  case idle => simp [State.fullReset_clearErrors]
  case tbwr =>
    refine ⟨_, exec_tbwr s.clearErrors addr data z, ?_⟩
    rw [State.timbreWrite_clearErrors, exec_tbwr, State.timbreWrite_eq]
    rfl
  case cfg =>
    rw [exec_cfg_of_valid h, exec_cfg_of_valid (s := s.clearErrors) h]
    rfl

/-- With an error standing a command changes the timbre RAM alone, or it is RESET or a valid CFG and ends the error. -/
theorem exec_cases_of_error {i : Instr} (he : s.cfgerr = true) (h : exec i s = .next t) :
    t = { s with ram := t.ram } ∨
    t.cfgerr = false ∧ ((∃ z, i = .reset z) ∨
      ∃ idx val z, i = .cfg idx val z ∧ ∀ code, ¬ MisconfigRow s.hw s.cfg idx.toNat val.toNat code) := by
  cases i with
  | nop | reserved3 | reserved4 | reserved5 | reserved6 | reserved7 | reservedA | reservedD => cases h; exact .inl rfl
  | noteoff | noteon | ctrl | prog | bend =>
    cases h.symm.trans (congrArg Host.Outcome.next (gated_of_error s he))
    exact .inl rfl
  | tbwr addr data z => cases h; exact .inl (s.timbreWrite_eq addr data)
  | reset z => cases h; exact .inr ⟨s.fullReset_cfgerr, .inl ⟨z, rfl⟩⟩
  | cfg idx val z =>
    by_cases hrow : ∃ code, MisconfigRow s.hw s.cfg idx.toNat val.toNat code
    · obtain ⟨code, hcode⟩ := hrow
      rw [invalidCfgTakesTrap s idx val z code hcode, if_pos he] at h
      cases h
      exact .inl rfl
    · have hvalid := not_exists.1 hrow
      rw [exec_cfg_of_valid hvalid] at h
      cases h
      exact .inr ⟨State.fullReset_cfgerr _, .inr ⟨idx, val, z, rfl, hvalid⟩⟩

/-- A command that raises an error is a CFG, and its word is what `ERRCMD` then holds (60_exceptions.md R324). -/
theorem cfg_of_error_raised {i : Instr} (h : exec i s = .next t) (he : s.cfgerr = false) (ht : t.cfgerr = true) :
    ∃ idx val z, i = .cfg idx val z ∧ t.errcmd = encode i := by
  have hne : t.cfgerr ≠ s.cfgerr := by rw [he, ht]; decide
  have hreset : ∀ u : State, t ≠ u.fullReset := fun u hu => by simp [hu, State.fullReset_cfgerr] at ht
  rcases exec_cases_command h with hf | ⟨idx, val, z, hi, ⟨k, hk⟩ | hr⟩ | ⟨-, -, -, -, hram⟩ | ⟨-, -, hr⟩
  · exact absurd (hf _ (ItemsHave.trivial s)).errors.1 hne
  · refine ⟨idx, val, z, hi, ?_⟩
    rw [hk, State.raiseMisconfig_of_ok he]
  · exact absurd hr (hreset _)
  · exact absurd (by rw [hram]) hne
  · exact absurd hr (hreset _)

/-- Settles O55, by whether an error stands: from no error only a trap raises one, and with one standing a command ends
it or leaves all but the timbre RAM. -/
theorem errorLatchHistory : Obligations.ErrorLatchHistory := by
  refine fun i s t h => ⟨cfg_of_error_raised h, fun he ht => ?cleared, fun he ht => ?stays⟩
  case cleared =>
    rcases exec_cases_of_error he h with hram | ⟨-, hi⟩
    · rw [hram] at ht
      cases he.symm.trans ht
    · exact hi
  case stays =>
    rcases exec_cases_of_error he h with hram | ⟨hok, -⟩
    · exact hram
    · rw [ht] at hok
      cases hok

end Sys2Proof.Machine
end

section
/-! Pin reset, and the 4-operator mask of a chip (70_reset_and_hazards.md R350, R353). -/

namespace Sys2Proof.Machine

open Sys2Proof

/-! ### Pin reset (70_reset_and_hazards.md R350) -/

/-- Settles O7: pin reset ends in a state reset, which resets the pool and the channels, and reads as the reset state
in every other field it writes. -/
theorem pinResetValues : Obligations.PinResetValues := by
  intro s rest h
  refine ⟨_, step_of_rstPulse s h, ?_⟩
  have hpool : PoolReset ({ s with inputs := rest } : State).pinReset := .stateReset _
  rw [State.pinReset_eq] at hpool ⊢
  exact ⟨rfl, rfl, rfl, rfl, fun _ => rfl, hpool, rfl, fun _ => rfl, rfl, rfl⟩

/-! ### The 4-operator mask (70_reset_and_hazards.md R353) -/

/-- Setting bit `i` sets that bit and keeps the others. -/
theorem getLsbD_or_one_shiftLeft {w j : Nat} (m : BitVec w) (i : Nat) (hj : j < w) :
    (m ||| ((1 <<< i : Nat) : BitVec w)).getLsbD j = (m.getLsbD j || decide (j = i)) := by
  rw [BitVec.getLsbD_or, BitVec.natCast_eq_ofNat, BitVec.getLsbD_ofNat, Nat.one_shiftLeft, Nat.testBit_two_pow]
  simp [hj, eq_comm]

/-- A loop that sets the bits of a list that pass a test leaves a bit set when it was set, or is listed and passes. -/
theorem getLsbD_foldl_setBit {w j : Nat} (p : Nat → Prop) [DecidablePred p] (hj : j < w) (l : List Nat) (m : BitVec w) :
    (l.foldl (fun m i => if p i then m ||| ((1 <<< i : Nat) : BitVec w) else m) m).getLsbD j =
      (m.getLsbD j || decide (j ∈ l ∧ p j)) := by
  induction l generalizing m with
  | nil => simp
  | cons i l ih =>
    rw [List.foldl_cons, ih]
    by_cases hi : p i
    · rw [if_pos hi, getLsbD_or_one_shiftLeft m i hj]
      by_cases hji : j = i <;> simp [hji, hi]
    · rw [if_neg hi]
      by_cases hji : j = i <;> simp [hji, hi]

/-- Settles O14: the loop runs over the six pairs of the chip, from a mask of zeros. -/
theorem fouropMaskBits : Obligations.FouropMaskBits := by
  intro c chip j hj
  rw [fouropMask, getLsbD_foldl_setBit (fun i => 6 * chip + i < c.n4op.toNat) hj]
  simp

end Sys2Proof.Machine
end
